-- ==== Sys2Proof/Word.lean ====
section
/-! DEFINITION. The word types of the machine (R5, R21, R23, R24): bytes, 16-bit words, register numbers. -/

namespace Sys2Proof

/-- An 8-bit value: a memory cell, a general register, a timer (R20). Always unsigned (R6). -/
abbrev Byte := BitVec 8

/-- A 16-bit value: `I`, `pc`, a stack entry, an instruction word (R20, R70). Always unsigned (R6). -/
abbrev Word := BitVec 16

/-- The number of a general register, V0 to VF (R21). -/
abbrev Reg := Fin 16

/-- The number of a key, 0x0 to 0xF (R30). -/
abbrev Key := Fin 16

/-- VF, the register that six instructions also use as their flag output (R22). -/
abbrev vf : Reg := 15

end Sys2Proof
end

