-- ==== Sys2Proof/Syntax.lean ====
section
/-! DEFINITION. The instructions: one constructor per row of spec/opcode_table.json (R76). -/

namespace Sys2Proof

/-- The 34 instructions of the opcode map (R76), in the order of the five family files of the spec.
`x` and `y` are register numbers, `kk` an immediate byte, `addr` a 12-bit address kept as the 16-bit word it is
zero-extended to (R73), `n` a row count. That `addr` fits 12 bits and `n` fits 4 is `Instr.WellFormed`'s to say. -/
inductive Instr where
  /-- `00EE`, return (R100). -/
  | ret
  /-- `1addr`, jump (R101). -/
  | jp (addr : Word)
  /-- `2addr`, call (R102). -/
  | call (addr : Word)
  /-- `3xkk`, skip if `V[x] = kk` (R103). -/
  | skipEqImm (x : Reg) (kk : Byte)
  /-- `4xkk`, skip if `V[x] != kk` (R104). -/
  | skipNeImm (x : Reg) (kk : Byte)
  /-- `5xy0`, skip if `V[x] = V[y]` (R105). -/
  | skipEqReg (x y : Reg)
  /-- `9xy0`, skip if `V[x] != V[y]` (R106). -/
  | skipNeReg (x y : Reg)
  /-- `Bxxx`, jump to `addr + V[0]` (R107). -/
  | jpV0 (addr : Word)
  /-- `6xkk`, load immediate (R120). -/
  | loadImm (x : Reg) (kk : Byte)
  /-- `7xkk`, add immediate, no flag (R121). -/
  | addImm (x : Reg) (kk : Byte)
  /-- `8xy0`, copy (R122). -/
  | copy (x y : Reg)
  /-- `8xy1`, bitwise OR (R123). -/
  | orReg (x y : Reg)
  /-- `8xy2`, bitwise AND (R124). -/
  | andReg (x y : Reg)
  /-- `8xy3`, bitwise exclusive OR (R125). -/
  | xorReg (x y : Reg)
  /-- `8xy4`, ADD with carry to VF (R126). -/
  | addReg (x y : Reg)
  /-- `8xy5`, SUB with not-borrow to VF (R127). -/
  | subReg (x y : Reg)
  /-- `8xy6`, SHR; the field `y` is ignored (R128). -/
  | shr (x y : Reg)
  /-- `8xy7`, SUBN, reverse subtract (R129). -/
  | subnReg (x y : Reg)
  /-- `8xyE`, SHL; the field `y` is ignored (R130). -/
  | shl (x y : Reg)
  /-- `Cxkk`, random byte AND `kk` (R131). -/
  | rnd (x : Reg) (kk : Byte)
  /-- `Axxx`, load index (R140). -/
  | loadI (addr : Word)
  /-- `Fx1E`, add register to index (R141). -/
  | addI (x : Reg)
  /-- `Fx29`, index of glyph (R142). -/
  | glyph (x : Reg)
  /-- `Fx33`, store decimal digits (R143). -/
  | storeBcd (x : Reg)
  /-- `Fx55`, store `V[0]` to `V[x]` (R144). -/
  | storeRegs (x : Reg)
  /-- `Fx65`, load `V[0]` to `V[x]` (R145). -/
  | loadRegs (x : Reg)
  /-- `00E0`, clear framebuffer (R150). -/
  | cls
  /-- `Dxyn`, draw sprite (R151). -/
  | draw (x y : Reg) (n : Nat)
  /-- `Ex9E`, skip if key pressed (R160). -/
  | skipKey (x : Reg)
  /-- `ExA1`, skip if key not pressed (R161). -/
  | skipNoKey (x : Reg)
  /-- `Fx0A`, wait for a key (R162). -/
  | waitKey (x : Reg)
  /-- `Fx07`, read the delay timer (R163). -/
  | readDelay (x : Reg)
  /-- `Fx15`, set the delay timer (R164). -/
  | setDelay (x : Reg)
  /-- `Fx18`, set the sound timer (R165). -/
  | setSound (x : Reg)
deriving DecidableEq, Repr

/-- The instruction's pattern, which is its mnemonic (R80). -/
def Instr.mnemonic : Instr → String
  | .ret => "00EE"
  | .jp _ => "1addr"
  | .call _ => "2addr"
  | .skipEqImm _ _ => "3xkk"
  | .skipNeImm _ _ => "4xkk"
  | .skipEqReg _ _ => "5xy0"
  | .skipNeReg _ _ => "9xy0"
  | .jpV0 _ => "Bxxx"
  | .loadImm _ _ => "6xkk"
  | .addImm _ _ => "7xkk"
  | .copy _ _ => "8xy0"
  | .orReg _ _ => "8xy1"
  | .andReg _ _ => "8xy2"
  | .xorReg _ _ => "8xy3"
  | .addReg _ _ => "8xy4"
  | .subReg _ _ => "8xy5"
  | .shr _ _ => "8xy6"
  | .subnReg _ _ => "8xy7"
  | .shl _ _ => "8xyE"
  | .rnd _ _ => "Cxkk"
  | .loadI _ => "Axxx"
  | .addI _ => "Fx1E"
  | .glyph _ => "Fx29"
  | .storeBcd _ => "Fx33"
  | .storeRegs _ => "Fx55"
  | .loadRegs _ => "Fx65"
  | .cls => "00E0"
  | .draw _ _ _ => "Dxyn"
  | .skipKey _ => "Ex9E"
  | .skipNoKey _ => "ExA1"
  | .waitKey _ => "Fx0A"
  | .readDelay _ => "Fx07"
  | .setDelay _ => "Fx15"
  | .setSound _ => "Fx18"

end Sys2Proof
end

