-- ==== Sys2Proof/WellFormed.lean ====
section
/-! DEFINITION. Which instruction terms an encoding exists for: the two bounds the types do not carry (R71, R73). -/

namespace Sys2Proof

/-- `addr` is an unsigned 12-bit value, 0 to 4095 (R73). -/
abbrev addrFits (addr : Word) : Prop := addr.toNat < 4096

/-- `n` in `Dxyn` is an unsigned count, 0 to 15 (R73). -/
abbrev rowsFit (n : Nat) : Prop := n < 16

/-- The check that the instruction has an encoding: its address fits 12 bits, its row count 4 bits (R71, R73).
Register numbers and immediate bytes fit by their types. -/
def Instr.wellFormed : Instr → Bool
  | .jp addr | .call addr | .jpV0 addr | .loadI addr => decide (addrFits addr)
  | .draw _ _ n => decide (rowsFit n)
  | .ret | .cls => true
  | .skipEqImm _ _ | .skipNeImm _ _ | .loadImm _ _ | .addImm _ _ | .rnd _ _ => true
  | .skipEqReg _ _ | .skipNeReg _ _ | .copy _ _ | .orReg _ _ | .andReg _ _ | .xorReg _ _ => true
  | .addReg _ _ | .subReg _ _ | .shr _ _ | .subnReg _ _ | .shl _ _ => true
  | .addI _ | .glyph _ | .storeBcd _ | .storeRegs _ | .loadRegs _ => true
  | .skipKey _ | .skipNoKey _ | .waitKey _ | .readDelay _ | .setDelay _ | .setSound _ => true

/-- The instruction has an encoding (R71, R73). -/
abbrev Instr.WellFormed (i : Instr) : Prop := i.wellFormed = true

end Sys2Proof
end

