-- ==== Sys2Proof/Decode.lean ====
section
/-! DEFINITION. Decoding and encoding (R70 to R79): total on any word and any bytes, rejecting by name. -/

namespace Sys2Proof

/-! ### Fields (R6, R71) -/

/-- The bit slice `op[hi:lo]` as an unsigned value (R6). -/
def bits (op : Word) (hi lo : Nat) : Nat := op.toNat / 2 ^ lo % 2 ^ (hi - lo + 1)

/-- The family `f = op[15:12]`, the top nibble (R71). -/
def fieldF (op : Word) : Nat := bits op 15 12

/-- The register field `x = op[11:8]` (R71, conflict C7). -/
def fieldX (op : Word) : Reg := Fin.ofNat 16 (bits op 11 8)

/-- The register field `y = op[7:4]` (R71). -/
def fieldY (op : Word) : Reg := Fin.ofNat 16 (bits op 7 4)

/-- The nibble `n = op[3:0]` (R71): row count of `Dxyn`, sub-opcode of family 8. -/
def fieldN (op : Word) : Nat := bits op 3 0

/-- The low byte `op[7:0]` as a number: the sub-opcode of families 0, E and F (R71). -/
def fieldSub (op : Word) : Nat := bits op 7 0

/-- The immediate byte `kk = op[7:0]` (R71). -/
def fieldKk (op : Word) : Byte := BitVec.ofNat 8 (fieldSub op)

/-- The immediate address `addr = op[11:0]`, zero-extended to 16 bits (R71, R73). -/
def fieldAddr (op : Word) : Word := BitVec.ofNat 16 (bits op 11 0)

/-! ### The decoder -/

/-- Why a word or a byte list is no instruction. Each of the first six is an `UnknownOpcode` word (R77). -/
inductive DecodeError where
  /-- A family-0 word other than 00E0 and 00EE (R75, R77, R78). -/
  | unknownFamily0
  /-- A family-5 word whose low nibble is not 0 (R75, R77). -/
  | unknownFamily5
  /-- A family-8 word whose low nibble is 8 to D or F (R77). -/
  | unknownFamily8
  /-- A family-9 word whose low nibble is not 0 (R75, R77). -/
  | unknownFamily9
  /-- A family-E word whose low byte is neither 9E nor A1 (R77). -/
  | unknownFamilyE
  /-- A family-F word whose low byte is none of the nine sub-opcodes (R77). -/
  | unknownFamilyF
  /-- Fewer than the two bytes of an instruction (R70). -/
  | tooShort
deriving DecidableEq, Repr

/-- Family 0, tested on all 16 bits (R75): `00E0`, `00EE`. -/
def decodeFamily0 (op : Word) : Except DecodeError Instr :=
  match bits op 11 0 with
  | 0x0E0 => .ok .cls
  | 0x0EE => .ok .ret
  | _ => .error .unknownFamily0

/-- Family 5 with its fixed low digit tested (R75): `5xy0`. -/
def decodeFamily5 (op : Word) : Except DecodeError Instr :=
  match fieldN op with
  | 0x0 => .ok (.skipEqReg (fieldX op) (fieldY op))
  | _ => .error .unknownFamily5

/-- Family 8, selected on `op[3:0]` (R74, R77). -/
def decodeFamily8 (op : Word) : Except DecodeError Instr :=
  match fieldN op with
  | 0x0 => .ok (.copy (fieldX op) (fieldY op))
  | 0x1 => .ok (.orReg (fieldX op) (fieldY op))
  | 0x2 => .ok (.andReg (fieldX op) (fieldY op))
  | 0x3 => .ok (.xorReg (fieldX op) (fieldY op))
  | 0x4 => .ok (.addReg (fieldX op) (fieldY op))
  | 0x5 => .ok (.subReg (fieldX op) (fieldY op))
  | 0x6 => .ok (.shr (fieldX op) (fieldY op))
  | 0x7 => .ok (.subnReg (fieldX op) (fieldY op))
  | 0xE => .ok (.shl (fieldX op) (fieldY op))
  | _ => .error .unknownFamily8

/-- Family 9 with its fixed low digit tested (R75): `9xy0`. -/
def decodeFamily9 (op : Word) : Except DecodeError Instr :=
  match fieldN op with
  | 0x0 => .ok (.skipNeReg (fieldX op) (fieldY op))
  | _ => .error .unknownFamily9

/-- Family E, selected on `op[7:0]` (R74, R77). -/
def decodeFamilyE (op : Word) : Except DecodeError Instr :=
  match fieldSub op with
  | 0x9E => .ok (.skipKey (fieldX op))
  | 0xA1 => .ok (.skipNoKey (fieldX op))
  | _ => .error .unknownFamilyE

/-- Family F, selected on `op[7:0]` (R74, R77). -/
def decodeFamilyF (op : Word) : Except DecodeError Instr :=
  match fieldSub op with
  | 0x07 => .ok (.readDelay (fieldX op))
  | 0x0A => .ok (.waitKey (fieldX op))
  | 0x15 => .ok (.setDelay (fieldX op))
  | 0x18 => .ok (.setSound (fieldX op))
  | 0x1E => .ok (.addI (fieldX op))
  | 0x29 => .ok (.glyph (fieldX op))
  | 0x33 => .ok (.storeBcd (fieldX op))
  | 0x55 => .ok (.storeRegs (fieldX op))
  | 0x65 => .ok (.loadRegs (fieldX op))
  | _ => .error .unknownFamilyF

/-- The two-level decoder of R74: the top nibble selects one of 16 families, families 0, 5, 8, 9, E and F look
further. A pure function of the word (R93). The last arm is family F, the only value of `op[15:12]` left. -/
def decode (op : Word) : Except DecodeError Instr :=
  match fieldF op with
  | 0x0 => decodeFamily0 op
  | 0x1 => .ok (.jp (fieldAddr op))
  | 0x2 => .ok (.call (fieldAddr op))
  | 0x3 => .ok (.skipEqImm (fieldX op) (fieldKk op))
  | 0x4 => .ok (.skipNeImm (fieldX op) (fieldKk op))
  | 0x5 => decodeFamily5 op
  | 0x6 => .ok (.loadImm (fieldX op) (fieldKk op))
  | 0x7 => .ok (.addImm (fieldX op) (fieldKk op))
  | 0x8 => decodeFamily8 op
  | 0x9 => decodeFamily9 op
  | 0xA => .ok (.loadI (fieldAddr op))
  | 0xB => .ok (.jpV0 (fieldAddr op))
  | 0xC => .ok (.rnd (fieldX op) (fieldKk op))
  | 0xD => .ok (.draw (fieldX op) (fieldY op) (fieldN op))
  | 0xE => decodeFamilyE op
  | _ => decodeFamilyF op

/-- The instruction word of two bytes, most significant byte first: `hi*256 + lo` (R58, R91). -/
def wordOfBytes (hi lo : Byte) : Word := BitVec.ofNat 16 (hi.toNat * 256 + lo.toNat)

/-- The high byte of an instruction word, stored at the lower address (R70). -/
def highByte (op : Word) : Byte := BitVec.ofNat 8 (op.toNat / 256)

/-- The low byte of an instruction word, stored at the higher address (R70). -/
def lowByte (op : Word) : Byte := BitVec.ofNat 8 op.toNat

/-- Decode the instruction at the head of a byte list; the answer comes with the bytes after it (R70). -/
def decodeBytes : List Byte → Except DecodeError (Instr × List Byte)
  | hi :: lo :: rest =>
    match decode (wordOfBytes hi lo) with
    | .ok i => .ok (i, rest)
    | .error e => .error e
  | _ => .error .tooShort

/-! ### The encoder (R72, R76) -/

/-- Format A: family and address (R72). -/
def encodeA (f : Nat) (addr : Word) : Word := BitVec.ofNat 16 (f * 4096 + addr.toNat)

/-- Format XK, and XS with the sub-opcode in place of `kk` (R72). -/
def encodeXK (f : Nat) (x : Reg) (kk : Nat) : Word := BitVec.ofNat 16 (f * 4096 + x.val * 256 + kk)

/-- Format XYN, and XY with the sub-opcode in place of `n` (R72). -/
def encodeXYN (f : Nat) (x y : Reg) (n : Nat) : Word :=
  BitVec.ofNat 16 (f * 4096 + x.val * 256 + y.val * 16 + n)

/-- The word of an instruction, from the opcode map (R76). -/
def encode : Instr → Word
  | .cls => 0x00E0
  | .ret => 0x00EE
  | .jp addr => encodeA 0x1 addr
  | .call addr => encodeA 0x2 addr
  | .skipEqImm x kk => encodeXK 0x3 x kk.toNat
  | .skipNeImm x kk => encodeXK 0x4 x kk.toNat
  | .skipEqReg x y => encodeXYN 0x5 x y 0x0
  | .loadImm x kk => encodeXK 0x6 x kk.toNat
  | .addImm x kk => encodeXK 0x7 x kk.toNat
  | .copy x y => encodeXYN 0x8 x y 0x0
  | .orReg x y => encodeXYN 0x8 x y 0x1
  | .andReg x y => encodeXYN 0x8 x y 0x2
  | .xorReg x y => encodeXYN 0x8 x y 0x3
  | .addReg x y => encodeXYN 0x8 x y 0x4
  | .subReg x y => encodeXYN 0x8 x y 0x5
  | .shr x y => encodeXYN 0x8 x y 0x6
  | .subnReg x y => encodeXYN 0x8 x y 0x7
  | .shl x y => encodeXYN 0x8 x y 0xE
  | .skipNeReg x y => encodeXYN 0x9 x y 0x0
  | .loadI addr => encodeA 0xA addr
  | .jpV0 addr => encodeA 0xB addr
  | .rnd x kk => encodeXK 0xC x kk.toNat
  | .draw x y n => encodeXYN 0xD x y n
  | .skipKey x => encodeXK 0xE x 0x9E
  | .skipNoKey x => encodeXK 0xE x 0xA1
  | .readDelay x => encodeXK 0xF x 0x07
  | .waitKey x => encodeXK 0xF x 0x0A
  | .setDelay x => encodeXK 0xF x 0x15
  | .setSound x => encodeXK 0xF x 0x18
  | .addI x => encodeXK 0xF x 0x1E
  | .glyph x => encodeXK 0xF x 0x29
  | .storeBcd x => encodeXK 0xF x 0x33
  | .storeRegs x => encodeXK 0xF x 0x55
  | .loadRegs x => encodeXK 0xF x 0x65

/-- An instruction as it stands in memory, high byte at the lower address (R70). -/
def encodeBytes (i : Instr) : List Byte := [highByte (encode i), lowByte (encode i)]

/-! ### The opcode map as data (R76) -/

/-- A row of the opcode map: a word `w` is the row's instruction iff `w & mask = pattern` (R76). -/
structure OpcodeRow where
  mnemonic : String
  pattern : Word
  mask : Word
deriving DecidableEq, Repr

/-- The opcode map, row by row as R76 prints it. It is no part of the decoder: statements compare the two. -/
def opcodeMap : List OpcodeRow :=
  [⟨"00E0", 0x00E0, 0xFFFF⟩, ⟨"00EE", 0x00EE, 0xFFFF⟩, ⟨"1addr", 0x1000, 0xF000⟩,
   ⟨"2addr", 0x2000, 0xF000⟩, ⟨"3xkk", 0x3000, 0xF000⟩, ⟨"4xkk", 0x4000, 0xF000⟩,
   ⟨"5xy0", 0x5000, 0xF00F⟩, ⟨"6xkk", 0x6000, 0xF000⟩, ⟨"7xkk", 0x7000, 0xF000⟩] ++
  [⟨"8xy0", 0x8000, 0xF00F⟩, ⟨"8xy1", 0x8001, 0xF00F⟩, ⟨"8xy2", 0x8002, 0xF00F⟩,
   ⟨"8xy3", 0x8003, 0xF00F⟩, ⟨"8xy4", 0x8004, 0xF00F⟩, ⟨"8xy5", 0x8005, 0xF00F⟩,
   ⟨"8xy6", 0x8006, 0xF00F⟩, ⟨"8xy7", 0x8007, 0xF00F⟩, ⟨"8xyE", 0x800E, 0xF00F⟩] ++
  [⟨"9xy0", 0x9000, 0xF00F⟩, ⟨"Axxx", 0xA000, 0xF000⟩, ⟨"Bxxx", 0xB000, 0xF000⟩,
   ⟨"Cxkk", 0xC000, 0xF000⟩, ⟨"Dxyn", 0xD000, 0xF000⟩, ⟨"Ex9E", 0xE09E, 0xF0FF⟩,
   ⟨"ExA1", 0xE0A1, 0xF0FF⟩] ++
  [⟨"Fx07", 0xF007, 0xF0FF⟩, ⟨"Fx0A", 0xF00A, 0xF0FF⟩, ⟨"Fx15", 0xF015, 0xF0FF⟩,
   ⟨"Fx18", 0xF018, 0xF0FF⟩, ⟨"Fx1E", 0xF01E, 0xF0FF⟩, ⟨"Fx29", 0xF029, 0xF0FF⟩,
   ⟨"Fx33", 0xF033, 0xF0FF⟩, ⟨"Fx55", 0xF055, 0xF0FF⟩, ⟨"Fx65", 0xF065, 0xF0FF⟩]

/-! ### The host's view of a table row -/

/-- The instruction word whose bits are `w`, numbered as spec/opcode_table.json numbers them: one 16-bit word, bit 0
its least significant bit, every bit from `nbits` up being 0. -/
def tableWord (nbits w : Nat) : Word := BitVec.ofNat 16 (w % 2 ^ nbits)

/-- What the decoder reads from the instruction with bits `w`, laid out in memory high byte first (R58, R70). -/
def decodeTableWord (nbits w : Nat) : Option Instr :=
  match decodeBytes [highByte (tableWord nbits w), lowByte (tableWord nbits w)] with
  | .ok (i, _) => some i
  | .error _ => none

end Sys2Proof
end

