-- ==== Sys2Proof/Config.lean ====
section
/-! DEFINITION. The fixed parameters of the hardware (R5), the type of its one parameter that is an argument, `FONT`,
and the one free value: the random byte (R37, R131). -/

namespace Sys2Proof

/-- MEM_SIZE: 4096 bytes, addresses 0 to 4095 (R5, R50). -/
abbrev Config.memSize : Nat := 4096

/-- ROM_BASE: where `load` puts the first byte, and the reset value of `pc` (R5, R38). -/
abbrev Config.romBase : Nat := 0x200

/-- ROM_MAX: the longest stream `load` accepts, 3584 bytes (R5, R204). -/
abbrev Config.romMax : Nat := Config.memSize - Config.romBase

/-- FONT_SIZE: 16 glyphs of 5 bytes each, at addresses 0 to 79 (R5, R53). -/
abbrev Config.fontSize : Nat := 80

/-- The parameter `FONT`: the 80 glyph bytes, which R5 marks "argument" (R54). Everything that needs them takes them as
an argument; `defaultFont` is the default the spec gives. -/
abbrev Font := Vector Byte Config.fontSize

/-- STACK_DEPTH: 16 entries (R5, R28). -/
abbrev Config.stackDepth : Nat := 16

/-- FB_W: 64 columns (R5, R31). -/
abbrev Config.screenWidth : Nat := 64

/-- FB_H: 32 rows (R5, R31). -/
abbrev Config.screenHeight : Nat := 32

/-- The random byte drawn by the `n`-th executed `Cxkk` (R37, R131: "one free byte per executed `Cxkk`").
A FREE VALUE: it has no body, nothing constrains it, and nothing relates one draw to another (log entry 4). -/
opaque Config.randomByte : Nat → Byte

end Sys2Proof
end

