-- ==== Sys2Proof/Machine/Font.lean ====
section
/-! DEFINITION. The default of the parameter `FONT` (R54), and the reset contents of memory for any font (R38, R51). -/

namespace Sys2Proof.Machine

/-- Glyphs 0 to 7 of the default `FONT` table (R54). -/
def fontLow : List Byte :=
  [0xF0, 0x90, 0x90, 0x90, 0xF0,  0x20, 0x60, 0x20, 0x20, 0x70,
   0xF0, 0x10, 0xF0, 0x80, 0xF0,  0xF0, 0x10, 0xF0, 0x10, 0xF0,
   0x90, 0x90, 0xF0, 0x10, 0x10,  0xF0, 0x80, 0xF0, 0x10, 0xF0,
   0xF0, 0x80, 0xF0, 0x90, 0xF0,  0xF0, 0x10, 0x20, 0x40, 0x40]

/-- Glyphs 8 to F of the default `FONT` table (R54). -/
def fontHigh : List Byte :=
  [0xF0, 0x90, 0xF0, 0x90, 0xF0,  0xF0, 0x90, 0xF0, 0x10, 0xF0,
   0xF0, 0x90, 0xF0, 0x90, 0x90,  0xE0, 0x90, 0xE0, 0x90, 0xE0,
   0xF0, 0x80, 0x80, 0x80, 0xF0,  0xE0, 0x90, 0x90, 0x90, 0xE0,
   0xF0, 0x80, 0xF0, 0x80, 0xF0,  0xF0, 0x80, 0xF0, 0x80, 0x80]

/-- The default of the parameter `FONT` (R54). PRESUMED: the spec takes these bytes from general knowledge (log
entry 6). -/
def defaultFont : Font := ⟨(fontLow ++ fontHigh).toArray, rfl⟩

/-- What memory holds at `a` after `reset` with the font `f`: the font at 0 to 79, zero everywhere else (R38, R51). This
is what an address not listed in a `Memory` reads as. -/
def resetByte (f : Font) (a : Nat) : Byte := if h : a < Config.fontSize then f[a] else 0

end Sys2Proof.Machine
end

