-- ==== Sys2Proof/Machine/State.lean ====
section
/-! DEFINITION. The state of the block as plain data (R20 to R41), the parameter `FONT` (R5, R37) and the model's own two
fields beside it, and the state after reset (R38, R200). -/

namespace Sys2Proof.Machine

/-- The run state of the whole machine (R33); an enumeration without numeric encoding. -/
inductive Status where
  /-- After `reset`, before a successful `load`. -/
  | uninitialized
  /-- After a successful `load`: the only status in which `step` is enabled (R90). -/
  | running
  /-- After a fault; terminal until `reset` (R170). -/
  | crashed
  /-- After the host's `stop`; terminal until `reset` (R176). -/
  | stopped
deriving DecidableEq, Repr

/-- The five fault causes (R171). These are faults of the HARDWARE, taken as next states with `status` Crashed;
they are no outcome `Fault` of the model. -/
inductive FaultCause where
  /-- The fetched word is no instruction (R172). -/
  | unknownOpcode
  /-- `2addr` with 16 return addresses on the stack (R173). -/
  | stackOverflow
  /-- `00EE` with an empty stack (R174). -/
  | stackUnderflow
  /-- A step that begins with `pc > 4094` (R175). -/
  | fetchOutOfBounds
  /-- `Dxyn`, `Fx33`, `Fx55` or `Fx65` with `I + len > 4096` (R175). -/
  | memoryOutOfBounds
deriving DecidableEq, Repr

/-- Memory as the list of bytes that differ from the reset contents, addresses rising (R35, R50). -/
abbrev Memory := List Host.Cell

/-- The 64 by 32 one-bit framebuffer (R31): 32 rows, each of 64 cells, true = on. -/
abbrev Framebuffer := Vector (Vector Bool Config.screenWidth) Config.screenHeight

/-- The atomic events of R11 that change state, each one driver-to-core call of R183. -/
inductive Event where
  /-- Machine construction (R200). -/
  | reset
  /-- The ROM loader with its byte stream (R204). -/
  | load (bytes : List Byte)
  /-- One `step` of the dispatcher (R90 to R96). -/
  | step
  /-- One `tick_timers()` (R166). -/
  | tick
  /-- The host writes one bit of the key latch (R30, R183). -/
  | setKey (k : Key) (pressed : Bool)
  /-- The host clears the framebuffer changed flag (R32, R183). -/
  | clearChanged
  /-- The host forces Stopped (R176, R183). -/
  | stop
deriving DecidableEq, Repr

/-- The complete state (R20), and three fields of the MODEL: the parameter `font`, and `draws` and `schedule` (log entries
1, 4, 5 and 23). -/
structure State where
  /-- `V[0]` to `V[15]`, 8 bits each (R21). -/
  v : Vector Byte 16
  /-- The index register `I`, 16 bits (R23). -/
  i : Word
  /-- The program counter, 16 bits (R24). -/
  pc : Word
  /-- The stack pointer, 8 bits, counting 0 to 16 return addresses (R27). -/
  sp : Byte
  /-- `stack[0]` to `stack[15]`, 16 bits each (R28). -/
  stack : Vector Word Config.stackDepth
  /-- The delay timer `DT`, 8 bits (R29). -/
  dt : Byte
  /-- The sound timer `ST`, 8 bits (R29). -/
  st : Byte
  /-- The key latch, true = pressed (R30). -/
  keys : Vector Bool 16
  /-- The framebuffer `fb` (R31). -/
  fb : Framebuffer
  /-- The framebuffer changed flag (R32). -/
  changed : Bool
  /-- The run state (R33). -/
  status : Status
  /-- The fault-cause latch; `none` is the spec's None (R34). -/
  cause : Option FaultCause
  /-- The 4096 bytes of memory (R35). -/
  mem : Memory
  /-- MODEL'S OWN: the parameter `FONT` this machine was given (R5, R37). It is no state of the block: no instruction and
  no event writes it, and it stands here because `step` and `exec` take no other argument (log entry 23). -/
  font : Font
  /-- MODEL'S OWN: how many random bytes have been drawn; the next draw is `Config.randomByte draws` (log entry 4). -/
  draws : Nat
  /-- MODEL'S OWN: the events the host issues next, oldest first (R11, R183, R205; log entry 1). -/
  schedule : List Event
deriving DecidableEq, Repr

/-- Why the machine has no next state. -/
inductive Fault where
  /-- Raised by `step` when no event is scheduled and `status` is not Running: the dispatcher "simply has no step
  there" (R90; U1 `stuck`). Safe: nothing can be proved of a step that does not exist (log entry 2). -/
  | notRunning
  /-- Raised by `2addr` and `00EE` when `sp` is above 16, a value the register never takes (R27, R40): there is no
  such stack entry. Safe: no run from reset reaches it (log entry 15). -/
  | noStackEntry
deriving DecidableEq, Repr

/-- Why the model gives an instruction no meaning. No instruction of this hardware is refused. -/
inductive Refusal where
  /-- Raised only by an arm of `exec` for an instruction without a meaning; there is none. Safe: nothing can be
  proved of a refused instruction. -/
  | notModelled (mnemonic : String)
deriving DecidableEq, Repr

/-- What a step, an instruction or an event answers. -/
abbrev Result := Host.Outcome State Fault Refusal

/-- The machine right after `reset` with the parameter `FONT` = `f` (R38, R200). Memory with nothing listed reads as the
font at 0 to 79 and zero elsewhere. The values of `keys` and `changed` rest on decision D16 (log entry 7); `draws` and
`schedule` are the model's own (log entry 5). -/
def State.resetWith (f : Font) : State where
  v := Vector.replicate 16 0
  i := 0
  pc := 0x200
  sp := 0
  stack := Vector.replicate Config.stackDepth 0
  dt := 0
  st := 0
  keys := Vector.replicate 16 false
  fb := Vector.replicate Config.screenHeight (Vector.replicate Config.screenWidth false)
  changed := false
  status := .uninitialized
  cause := none
  mem := []
  font := f
  draws := 0
  schedule := []

/-- The machine right after `reset` with `FONT` at its default (R5, R54; log entry 6). -/
def State.reset : State := State.resetWith defaultFont

end Sys2Proof.Machine
end

