-- ==== Sys2Proof/Machine/Ops.lean ====
section
/-! DEFINITION. The named operations over memory, registers, stack and framebuffer, and raising a fault (R8, R9). -/

namespace Sys2Proof.Machine

/-! ### Memory (R50 to R58) -/

/-- The canonical form under the font `f`: addresses strictly rising and below 4096, no entry equal to the reset
contents. -/
abbrev Memory.wf (f : Font) (m : Memory) : Prop :=
  m.Pairwise (fun c d => c.1 < d.1) ∧ ∀ c ∈ m, c.1 < Config.memSize ∧ c.2 ≠ resetByte f c.1

/-- The byte at address `a` (R8). -/
def Memory.read (f : Font) : Memory → Nat → Byte
  | [], a => resetByte f a
  | (k, b) :: rest, a => if k = a then b else Memory.read f rest a

/-- `m` with nothing listed at `a`. -/
def Memory.erase (m : Memory) (a : Nat) : Memory := m.filter (fun c => c.1 ≠ a)

/-- `m` with `(a, b)` listed before the first higher address. -/
def Memory.insert : Memory → Nat → Byte → Memory
  | [], a, b => [(a, b)]
  | (k, c) :: rest, a, b => if a < k then (a, b) :: (k, c) :: rest else (k, c) :: Memory.insert rest a b

/-- Write one byte (R8). An address above 4095 has no cell and nothing is written there; no instruction and no event
gets that far, because each tests its bound first (R57). -/
def Memory.write (f : Font) (m : Memory) (a : Nat) (b : Byte) : Memory :=
  if a < Config.memSize then
    if b = resetByte f a then m.erase a else (m.erase a).insert a b
  else m

/-- `MemRead(a, n)`: the `n` bytes at `a` to `a+n-1`, lowest address first, no wrap-around (R8, R56). -/
def Memory.readBytes (f : Font) (m : Memory) (a : Nat) : Nat → List Byte
  | 0 => []
  | n + 1 => m.read f a :: Memory.readBytes f m (a + 1) n

/-- `MemWrite(a, n, v)`: the bytes of `v` to consecutive ascending addresses from `a`, no wrap-around (R8, R56). -/
def Memory.writeBytes (f : Font) (m : Memory) (a : Nat) : List Byte → Memory
  | [] => m
  | b :: rest => Memory.writeBytes f (m.write f a b) (a + 1) rest

/-! ### Registers and the other single cells -/

/-- Read `V[x]` (R21). -/
def State.reg (s : State) (x : Reg) : Byte := s.v[x]

/-- `V[x] <- b` (R7). -/
def State.setReg (s : State) (x : Reg) (b : Byte) : State := { s with v := s.v.set x b }

/-- Replace all sixteen registers at once (`Fx65`, R145). -/
def State.setRegs (s : State) (v : Vector Byte 16) : State := { s with v := v }

/-- `I <- w` (R7). -/
def State.setI (s : State) (w : Word) : State := { s with i := w }

/-- `pc <- w` (R7). -/
def State.setPc (s : State) (w : Word) : State := { s with pc := w }

/-- `DT <- b` (R7). -/
def State.setDt (s : State) (b : Byte) : State := { s with dt := b }

/-- `ST <- b` (R7). -/
def State.setSt (s : State) (b : Byte) : State := { s with st := b }

/-- `keys[k] <- p` (R183). -/
def State.setKeyBit (s : State) (k : Key) (p : Bool) : State := { s with keys := s.keys.set k p }

/-- Key `k` is pressed (R30). -/
def State.key (s : State) (k : Key) : Bool := s.keys[k]

/-- `changed <- b` (R32). -/
def State.setChanged (s : State) (b : Bool) : State := { s with changed := b }

/-- `status <- c` (R33). -/
def State.setStatus (s : State) (c : Status) : State := { s with status := c }

/-- Replace the framebuffer (R31). -/
def State.setFb (s : State) (f : Framebuffer) : State := { s with fb := f }

/-- Replace memory (R35). -/
def State.setMem (s : State) (m : Memory) : State := { s with mem := m }

/-- The byte of the machine's memory at `a`: `MemRead(a, 1)` (R8). -/
def State.byte (s : State) (a : Nat) : Byte := s.mem.read s.font a

/-- The `n` bytes of the machine's memory from `a`: `MemRead(a, n)` (R8). -/
def State.bytes (s : State) (a n : Nat) : List Byte := s.mem.readBytes s.font a n

/-- `MemWrite(a, n, l)` with the `n` bytes of `l` (R8). -/
def State.store (s : State) (a : Nat) (l : List Byte) : State := s.setMem (s.mem.writeBytes s.font a l)

/-- The events that remain scheduled (log entry 1). -/
def State.setSchedule (s : State) (l : List Event) : State := { s with schedule := l }

/-- `pc <- pc + 2`: the fetch advance (R92) and the further 2 of a skip (R103). -/
def State.advance (s : State) : State := s.setPc (s.pc + 2)

/-- `rnd()`: the random byte this draw gives; `State.drawn` is the state after it (R10, R131). -/
def State.rnd (s : State) : Byte := Config.randomByte s.draws

/-- The state after one draw of a random byte (R131). -/
def State.drawn (s : State) : State := { s with draws := s.draws + 1 }

/-! ### The call stack (R27, R28) -/

/-- Push: write `stack[sp]`, then increment `sp`. The index `k` is `sp`, below 16. -/
def State.push (s : State) (k : Fin 16) (w : Word) : State :=
  { s with stack := s.stack.set k w, sp := s.sp + 1 }

/-- Pop: decrement `sp`, then take `stack[sp]` to `pc`. The index `k` is the new `sp`; the entry keeps its value. -/
def State.popToPc (s : State) (k : Fin 16) : State :=
  { s with sp := s.sp - 1, pc := s.stack[k] }

/-! ### The framebuffer (R31) -/

/-- `fb[x,y]`; false outside the 64 by 32 grid. -/
def Framebuffer.pixel (f : Framebuffer) (x y : Nat) : Bool :=
  if h : x < Config.screenWidth ∧ y < Config.screenHeight then (f[y]'h.2)[x]'h.1 else false

/-- `fb[x,y] <- fb[x,y] ^ 1`; nothing outside the grid. -/
def Framebuffer.toggle (f : Framebuffer) (x y : Nat) : Framebuffer :=
  if h : x < Config.screenWidth ∧ y < Config.screenHeight then
    f.set y ((f[y]'h.2).set x (!(f[y]'h.2)[x]'h.1) h.1) h.2
  else f

/-- Every cell off (R150). -/
def Framebuffer.blank : Framebuffer :=
  Vector.replicate Config.screenHeight (Vector.replicate Config.screenWidth false)

/-! ### Raising a fault (R9, R170, R177) -/

/-- `raise Fault(c)`: `status <- Crashed`, `cause <- c`, and nothing else (R9). This is the machine's whole fault
entry: nothing is saved, control goes nowhere, and there is no return from it (R177, R178); only `reset` leaves
Crashed. The `pc` is what the step has made of it by then (R95, R175). -/
def State.raise (s : State) (c : FaultCause) : State := { s with status := .crashed, cause := some c }

/-- The code of the `cause` latch (R171). -/
def causeCode : Option FaultCause → Nat
  | none => 0
  | some .unknownOpcode => 1
  | some .stackOverflow => 2
  | some .stackUnderflow => 3
  | some .fetchOutOfBounds => 4
  | some .memoryOutOfBounds => 5

end Sys2Proof.Machine
end

