-- ==== Sys2Proof/Machine/Flags.lean ====
section
/-! DEFINITION. Every flag computation (R22, R118) and the write of a result with its flag (R119). -/

namespace Sys2Proof.Machine

/-- A flag as VF holds it: exactly 0 or 1 (R22). -/
def flagByte (b : Bool) : Byte := if b then 1 else 0

/-- Carry of `8xy4`: the exact sum exceeds 255 (R126). -/
def carry (a b : Byte) : Bool := decide (a.toNat + b.toNat > 255)

/-- Not borrow of `8xy5` and `8xy7`: minuend at least subtrahend, unsigned (R127, R129). -/
def notBorrow (a b : Byte) : Bool := decide (a.toNat ≥ b.toNat)

/-- The bit `8xy6` shifts out: bit 0 (R128). -/
def shiftedOutRight (v : Byte) : Bool := v.getLsbD 0

/-- The bit `8xyE` shifts out: bit 7 (R130). -/
def shiftedOutLeft (v : Byte) : Bool := v.getLsbD 7

/-- The exact sum reduced modulo 256 (R118, R126). -/
def sum8 (a b : Byte) : Byte := BitVec.ofNat 8 (a.toNat + b.toNat)

/-- The exact difference reduced modulo 256 (R118, R127). -/
def diff8 (a b : Byte) : Byte := BitVec.ofNat 8 (256 + a.toNat - b.toNat)

/-- Right by one, a 0 entering at bit 7: `v div 2` (R118, R128). -/
def half8 (v : Byte) : Byte := BitVec.ofNat 8 (v.toNat / 2)

/-- Left by one, truncated to 8 bits: `(v * 2) mod 256` (R118, R130). -/
def double8 (v : Byte) : Byte := BitVec.ofNat 8 (v.toNat * 2)

/-- The result to `V[x]`, then the flag to `V[15]`, last: with `x = 15` the flag is what VF holds (R119, D8). -/
def State.setWithFlag (s : State) (x : Reg) (result : Byte) (flag : Bool) : State :=
  (s.setReg x result).setReg vf (flagByte flag)

end Sys2Proof.Machine
end

