-- ==== Sys2Proof/Machine/Operands.lean ====
section
/-! DEFINITION. The operand forms: register-indirect addressing through `I` with its bound test (R57, 43 preamble),
key selection, glyph address, decimal digits, register lists, sprite origin. -/

namespace Sys2Proof.Machine

/-- The effective base address: `I` as an unbounded natural number, no wrap-around (R8). -/
def State.base (s : State) : Nat := s.i.toNat

/-- The `len` bytes at `I` lie in memory: `I + len <= 4096`, and an access of no bytes always does (R57). -/
abbrev State.inBounds (s : State) (len : Nat) : Prop := len = 0 ∨ s.base + len ≤ Config.memSize

/-- An instruction that accesses `len` bytes at `I`: the bound is tested first; beyond it MemoryOutOfBounds is raised
and nothing is accessed or written (R57, R175). -/
def withBounds (len : Nat) (s : State) (body : State → Result) : Result :=
  if s.inBounds len then body s else .next (s.raise .memoryOutOfBounds)

/-- The key a register selects: `V[x] & 0x0F` (R160, R161). -/
def State.keyOf (s : State) (x : Reg) : Key := Fin.ofNat 16 (s.reg x).toNat

/-- The least pressed key from `k` upwards among `n` keys (R162). -/
def State.pressedFrom (s : State) (k : Nat) : Nat → Option Nat
  | 0 => none
  | n + 1 => if s.key (Fin.ofNat 16 k) then some k else State.pressedFrom s (k + 1) n

/-- The least pressed key: the latch scanned from 0 to 15 (R162). -/
def State.leastPressed (s : State) : Option Nat := s.pressedFrom 0 16

/-- The address of the glyph of the low nibble of `V[x]`: `5 * (V[x] & 0x0F)` (R142). -/
def State.glyphAddress (s : State) (x : Reg) : Word := BitVec.ofNat 16 (5 * ((s.reg x).toNat % 16))

/-- The hundreds, tens and ones digits of a byte, in that order (R143). -/
def bcdDigits (v : Byte) : List Byte :=
  [BitVec.ofNat 8 (v.toNat / 100), BitVec.ofNat 8 (v.toNat / 10 % 10), BitVec.ofNat 8 (v.toNat % 10)]

/-- The registers `V[0]` to `V[x]` inclusive, ascending: `Fx55`'s source (R144). -/
def State.regsUpTo (s : State) (x : Reg) : List Byte := s.v.toList.take (x.val + 1)

/-- All sixteen registers with `V[k]` loaded from `I + k` for `k` from 0 to `x`: `Fx65`'s effect (R145). -/
def State.loadedRegs (s : State) (x : Reg) : Vector Byte 16 :=
  Vector.ofFn fun k => if k ≤ x then s.byte (s.base + k.val) else s.v[k]

/-- The origin column of a sprite, `V[x] mod 64` (R151). -/
def State.originX (s : State) (x : Reg) : Nat := (s.reg x).toNat % Config.screenWidth

/-- The origin row of a sprite, `V[y] mod 32` (R151). -/
def State.originY (s : State) (y : Reg) : Nat := (s.reg y).toNat % Config.screenHeight

end Sys2Proof.Machine
end

