-- ==== Sys2Proof/Machine/Alu.lean ====
section
/-! DEFINITION. Register load, arithmetic, logic and random (spec file 42). Sources are read before any write (R119). -/

namespace Sys2Proof.Machine

/-- `6xkk`, load immediate (R120). -/
def execLoadImm (x : Reg) (kk : Byte) (s : State) : Result := .next (s.setReg x kk)

/-- `7xkk`, add immediate modulo 256; VF is not written as a flag (R121). -/
def execAddImm (x : Reg) (kk : Byte) (s : State) : Result := .next (s.setReg x (sum8 (s.reg x) kk))

/-- `8xy0`, copy (R122). -/
def execCopy (x y : Reg) (s : State) : Result := .next (s.setReg x (s.reg y))

/-- `8xy1`, OR; VF unchanged (R123). -/
def execOrReg (x y : Reg) (s : State) : Result := .next (s.setReg x (s.reg x ||| s.reg y))

/-- `8xy2`, AND; VF unchanged (R124). -/
def execAndReg (x y : Reg) (s : State) : Result := .next (s.setReg x (s.reg x &&& s.reg y))

/-- `8xy3`, XOR; VF unchanged (R125). -/
def execXorReg (x y : Reg) (s : State) : Result := .next (s.setReg x (s.reg x ^^^ s.reg y))

/-- `8xy4`, ADD with carry to VF (R126). -/
def execAddReg (x y : Reg) (s : State) : Result :=
  .next (s.setWithFlag x (sum8 (s.reg x) (s.reg y)) (carry (s.reg x) (s.reg y)))

/-- `8xy5`, SUB with not-borrow to VF (R127). -/
def execSubReg (x y : Reg) (s : State) : Result :=
  .next (s.setWithFlag x (diff8 (s.reg x) (s.reg y)) (notBorrow (s.reg x) (s.reg y)))

/-- `8xy6`, SHR of `V[x]`; `y` is ignored (R128). -/
def execShr (x _y : Reg) (s : State) : Result :=
  .next (s.setWithFlag x (half8 (s.reg x)) (shiftedOutRight (s.reg x)))

/-- `8xy7`, SUBN: `V[y] - V[x]` with not-borrow to VF (R129). -/
def execSubnReg (x y : Reg) (s : State) : Result :=
  .next (s.setWithFlag x (diff8 (s.reg y) (s.reg x)) (notBorrow (s.reg y) (s.reg x)))

/-- `8xyE`, SHL of `V[x]`; `y` is ignored (R130). -/
def execShl (x _y : Reg) (s : State) : Result :=
  .next (s.setWithFlag x (double8 (s.reg x)) (shiftedOutLeft (s.reg x)))

/-- `Cxkk`, one random byte AND `kk` (R131). -/
def execRnd (x : Reg) (kk : Byte) (s : State) : Result := .next (s.drawn.setReg x (s.rnd &&& kk))

end Sys2Proof.Machine
end

