-- ==== Sys2Proof/Machine/Display.lean ====
section
/-! DEFINITION. The display and the collision detector (spec file 44). -/

namespace Sys2Proof.Machine

/-- What drawing carries along: the framebuffer and whether a toggle has found its pixel on. -/
abbrev Plot := Framebuffer × Bool

/-- Plot one set sprite bit at column `px`, row `py`: toggle the pixel if it is on the screen, else drop the bit (R151). -/
def plotPixel (p : Plot) (px py : Nat) : Plot :=
  if px < Config.screenWidth ∧ py < Config.screenHeight then
    (p.1.toggle px py, p.2 || p.1.pixel px py)
  else p

/-- Sprite columns `c` up to 7 of one sprite byte, left to right; bit `7 - c` is column `c` (R151, R152). The last
argument is how many columns are left. -/
def plotColumns (b : Byte) (ox py : Nat) : Nat → Plot → Plot
  | 0, p => p
  | n + 1, p =>
    plotColumns b ox py n (if b.getLsbD n then plotPixel p (ox + (7 - n)) py else p)

/-- One sprite row: the 8 columns of byte `b` from column `ox` in row `py` (R151). -/
def plotRow (b : Byte) (ox py : Nat) (p : Plot) : Plot := plotColumns b ox py 8 p

/-- The rows of a sprite, top to bottom, from row `py` down (R151, R152). -/
def plotRows (ox : Nat) : List Byte → Nat → Plot → Plot
  | [], _, p => p
  | b :: rest, py, p => plotRows ox rest (py + 1) (plotRow b ox py p)

/-- The sprite `rows` drawn on `f` with its first row and column at `(ox, oy)` (R151). -/
def drawSprite (f : Framebuffer) (ox oy : Nat) (rows : List Byte) : Plot := plotRows ox rows oy (f, false)

/-- `00E0`, clear the framebuffer and set the changed flag (R150). -/
def execCls (s : State) : Result := .next ((s.setFb Framebuffer.blank).setChanged true)

/-- The state a sprite leaves: the framebuffer, VF the collision, written last, and the changed flag (R151). -/
def State.plotted (s : State) (p : Plot) : State :=
  ((s.setFb p.1).setReg vf (flagByte p.2)).setChanged true

/-- `Dxyn`, draw the `n` bytes at `I` at the origin `(V[x] mod 64, V[y] mod 32)` (R151). -/
def execDraw (x y : Reg) (n : Nat) (s : State) : Result :=
  withBounds n s fun s =>
    .next (s.plotted (drawSprite s.fb (s.originX x) (s.originY y) (s.bytes s.base n)))

end Sys2Proof.Machine
end

