-- ==== Sys2Proof/Machine/Flow.lean ====
section
/-! DEFINITION. Control transfer (spec file 41): the meanings run with `pc` already at `ia + 2` (R10, R92). -/

namespace Sys2Proof.Machine

/-- Skip the next instruction when the condition holds: `pc` becomes `ia + 4` (R103). -/
def skipIf (c : Bool) (s : State) : Result := .next (if c then s.advance else s)

/-- `00EE`, return (R100). -/
def execRet (s : State) : Result :=
  if s.sp = 0 then .next (s.raise .stackUnderflow)
  else if h : s.sp.toNat - 1 < 16 then .next (s.popToPc ⟨s.sp.toNat - 1, h⟩)
  else .fault .noStackEntry

/-- `1addr`, jump (R101). -/
def execJp (addr : Word) (s : State) : Result := .next (s.setPc addr)

/-- `2addr`, call: push the advanced `pc`, then jump (R102). -/
def execCall (addr : Word) (s : State) : Result :=
  if s.sp = 16 then .next (s.raise .stackOverflow)
  else if h : s.sp.toNat < 16 then .next ((s.push ⟨s.sp.toNat, h⟩ s.pc).setPc addr)
  else .fault .noStackEntry

/-- `3xkk`, skip if equal to immediate (R103). -/
def execSkipEqImm (x : Reg) (kk : Byte) (s : State) : Result := skipIf (s.reg x == kk) s

/-- `4xkk`, skip if not equal to immediate (R104). -/
def execSkipNeImm (x : Reg) (kk : Byte) (s : State) : Result := skipIf (s.reg x != kk) s

/-- `5xy0`, skip if registers equal (R105). -/
def execSkipEqReg (x y : Reg) (s : State) : Result := skipIf (s.reg x == s.reg y) s

/-- `9xy0`, skip if registers differ (R106). -/
def execSkipNeReg (x y : Reg) (s : State) : Result := skipIf (s.reg x != s.reg y) s

/-- `Bxxx`, jump to `addr + V[0]`, a 16-bit sum that is not reduced (R107). -/
def execJpV0 (addr : Word) (s : State) : Result := .next (s.setPc (addr + (s.reg 0).setWidth 16))

end Sys2Proof.Machine
end

