-- ==== Sys2Proof/Machine/IndexMemory.lean ====
section
/-! DEFINITION. The index register and memory (spec file 43). `I` is changed only by the first three. -/

namespace Sys2Proof.Machine

/-- `Axxx`, load index (R140). -/
def execLoadI (addr : Word) (s : State) : Result := .next (s.setI addr)

/-- `Fx1E`, add register to index modulo 65536, no flag (R141, D9). -/
def execAddI (x : Reg) (s : State) : Result :=
  .next (s.setI (BitVec.ofNat 16 (s.i.toNat + (s.reg x).toNat)))

/-- `Fx29`, index of glyph (R142). -/
def execGlyph (x : Reg) (s : State) : Result := .next (s.setI (s.glyphAddress x))

/-- `Fx33`, store the three decimal digits of `V[x]` at `I` (R143). -/
def execStoreBcd (x : Reg) (s : State) : Result :=
  withBounds 3 s fun s => .next (s.store s.base (bcdDigits (s.reg x)))

/-- `Fx55`, store `V[0]` to `V[x]` at `I`; `I` unchanged (R144, D10). -/
def execStoreRegs (x : Reg) (s : State) : Result :=
  withBounds (x.val + 1) s fun s => .next (s.store s.base (s.regsUpTo x))

/-- `Fx65`, load `V[0]` to `V[x]` from `I`; `I` unchanged (R145, D10). -/
def execLoadRegs (x : Reg) (s : State) : Result :=
  withBounds (x.val + 1) s fun s => .next (s.setRegs (s.loadedRegs x))

end Sys2Proof.Machine
end

