-- ==== Sys2Proof/Machine/KeysTimers.lean ====
section
/-! DEFINITION. Keypad and timer instructions (spec file 45). The latch is read as it stands at the step (R30). -/

namespace Sys2Proof.Machine

/-- `Ex9E`, skip if the key `V[x] & 0x0F` is pressed (R160). -/
def execSkipKey (x : Reg) (s : State) : Result := skipIf (s.key (s.keyOf x)) s

/-- `ExA1`, skip if the key `V[x] & 0x0F` is not pressed (R161). -/
def execSkipNoKey (x : Reg) (s : State) : Result := skipIf (!s.key (s.keyOf x)) s

/-- `Fx0A`: the least pressed key to `V[x]`; with no key pressed, `pc` back to `ia` (R162). -/
def execWaitKey (x : Reg) (s : State) : Result :=
  match s.leastPressed with
  | some k => .next (s.setReg x (BitVec.ofNat 8 k))
  | none => .next (s.setPc (s.pc - 2))

/-- `Fx07`, read the delay timer (R163). -/
def execReadDelay (x : Reg) (s : State) : Result := .next (s.setReg x s.dt)

/-- `Fx15`, set the delay timer (R164). -/
def execSetDelay (x : Reg) (s : State) : Result := .next (s.setDt (s.reg x))

/-- `Fx18`, set the sound timer (R165). -/
def execSetSound (x : Reg) (s : State) : Result := .next (s.setSt (s.reg x))

end Sys2Proof.Machine
end

