-- ==== Sys2Proof/Machine/Dispatch.lean ====
section
/-! DEFINITION. Execute (R94): the meaning of each instruction, in a state whose `pc` is already `ia + 2` (R10, R92). -/

namespace Sys2Proof.Machine

def exec (i : Instr) (s : State) : Host.Outcome State Fault Refusal :=
  match i with
  -- control transfer (41)
  | .ret => Sys2Proof.Machine.execRet s
  | .jp addr => Sys2Proof.Machine.execJp addr s
  | .call addr => Sys2Proof.Machine.execCall addr s
  | .skipEqImm x kk => Sys2Proof.Machine.execSkipEqImm x kk s
  | .skipNeImm x kk => Sys2Proof.Machine.execSkipNeImm x kk s
  | .skipEqReg x y => Sys2Proof.Machine.execSkipEqReg x y s
  | .skipNeReg x y => Sys2Proof.Machine.execSkipNeReg x y s
  | .jpV0 addr => Sys2Proof.Machine.execJpV0 addr s
  -- load, arithmetic, logic, random (42)
  | .loadImm x kk => Sys2Proof.Machine.execLoadImm x kk s
  | .addImm x kk => Sys2Proof.Machine.execAddImm x kk s
  | .copy x y => Sys2Proof.Machine.execCopy x y s
  | .orReg x y => Sys2Proof.Machine.execOrReg x y s
  | .andReg x y => Sys2Proof.Machine.execAndReg x y s
  | .xorReg x y => Sys2Proof.Machine.execXorReg x y s
  | .addReg x y => Sys2Proof.Machine.execAddReg x y s
  | .subReg x y => Sys2Proof.Machine.execSubReg x y s
  | .shr x y => Sys2Proof.Machine.execShr x y s
  | .subnReg x y => Sys2Proof.Machine.execSubnReg x y s
  | .shl x y => Sys2Proof.Machine.execShl x y s
  | .rnd x kk => Sys2Proof.Machine.execRnd x kk s
  -- index register and memory (43)
  | .loadI addr => Sys2Proof.Machine.execLoadI addr s
  | .addI x => Sys2Proof.Machine.execAddI x s
  | .glyph x => Sys2Proof.Machine.execGlyph x s
  | .storeBcd x => Sys2Proof.Machine.execStoreBcd x s
  | .storeRegs x => Sys2Proof.Machine.execStoreRegs x s
  | .loadRegs x => Sys2Proof.Machine.execLoadRegs x s
  -- display (44)
  | .cls => Sys2Proof.Machine.execCls s
  | .draw x y n => Sys2Proof.Machine.execDraw x y n s
  -- keypad and timers (45)
  | .skipKey x => Sys2Proof.Machine.execSkipKey x s
  | .skipNoKey x => Sys2Proof.Machine.execSkipNoKey x s
  | .waitKey x => Sys2Proof.Machine.execWaitKey x s
  | .readDelay x => Sys2Proof.Machine.execReadDelay x s
  | .setDelay x => Sys2Proof.Machine.execSetDelay x s
  | .setSound x => Sys2Proof.Machine.execSetSound x s

end Sys2Proof.Machine
end

