-- ==== Sys2Proof/Machine/Events.lean ====
section
/-! DEFINITION. The atomic events (R11, R183): the dispatcher's step around the instruction (R90 to R96), the timer
tick (R166), and the host's reset, load, set_key, clear_changed and stop; and which event comes next. -/

namespace Sys2Proof.Machine

/-! ### The dispatcher's step -/

/-- The last address a fetch may begin at: `ia + 1 <= 4095` (R91). -/
abbrev fetchable (pc : Word) : Prop := pc.toNat + 1 < Config.memSize

/-- The instruction word at `pc`, high byte at the lower address (R58, R91). -/
def State.fetchedWord (s : State) : Word := wordOfBytes (s.byte s.pc.toNat) (s.byte (s.pc.toNat + 1))

/-- Decode the fetched word and execute it with `pc` at `ia + 2`; a word that is no instruction raises UnknownOpcode
after the advance (R92 to R95, D7). -/
def execute (op : Word) (s : State) : Result :=
  match decode op with
  | .ok i => exec i s.advance
  | .error _ => .next (s.advance.raise .unknownOpcode)

/-- One `step` of a Running machine: fetch, advance, decode, execute (R91 to R95). Beyond the last fetchable address
FetchOutOfBounds is raised with `pc` unchanged. The order of checks is R179's. -/
def dispatcherStep (s : State) : Result :=
  if fetchable s.pc then execute s.fetchedWord s else .next (s.raise .fetchOutOfBounds)

/-! ### The other events -/

/-- Count a timer down by one, never below 0 (R166). -/
def countDown (b : Byte) : Byte := if b = 0 then 0 else b - 1

/-- `tick`: both timers, nothing else, in every status (R166). -/
def tick (s : State) : State := (s.setDt (countDown s.dt)).setSt (countDown s.st)

/-- `reset`: every component takes its reset value, memory that of the machine's own font, in every status (R200, D17). The
model's own `draws` and `schedule` belong to the random source and to the host, and stay (log entry 5). -/
def resetEvent (s : State) : State := { State.resetWith s.font with draws := s.draws, schedule := s.schedule }

/-- Why the loader rejects a stream (R189, R204). -/
inductive LoadError where
  /-- `status` is not Uninitialized: "a caller error" (R204). -/
  | notUninitialized
  /-- The stream is longer than 3584 bytes (R204). -/
  | tooLarge
deriving DecidableEq, Repr

/-- `load(bytes)` with the answer it returns to the host (R204). -/
def loadRom (bytes : List Byte) (s : State) : Except LoadError State :=
  if s.status ≠ .uninitialized then .error .notUninitialized
  else if bytes.length > Config.romMax then .error .tooLarge
  else .ok ((s.store Config.romBase bytes).setStatus .running)

/-- The effect of `load(bytes)` on the state: none if it is rejected (R176, R204). -/
def load (bytes : List Byte) (s : State) : State :=
  match loadRom bytes s with
  | .ok t => t
  | .error _ => s

/-- `stop`: from Running to Stopped, ignored elsewhere (R176, R183). -/
def stop (s : State) : State := if s.status = .running then s.setStatus .stopped else s

/-- One event of R11 as a total function of the state (R183). A `step` outside Running "is not a transition at all:
the state is unchanged" (R90). -/
def applyEvent (e : Event) (s : State) : Result :=
  match e with
  | .reset => .next (resetEvent s)
  | .load bytes => .next (load bytes s)
  | .step => if s.status = .running then dispatcherStep s else .next s
  | .tick => .next (tick s)
  | .setKey k p => .next (s.setKeyBit k p)
  | .clearChanged => .next (s.setChanged false)
  | .stop => .next (stop s)

/-! ### Observations of the host (R183): no state change -/

/-- `status()`. -/
def observeStatus (s : State) : Status := s.status

/-- `read_framebuffer()`: all of `fb` and the changed flag, which is not cleared. -/
def readFramebuffer (s : State) : Framebuffer × Bool := (s.fb, s.changed)

/-! ### Which event comes next -/

/-- The machine's next event: the oldest scheduled one; with none scheduled, the dispatcher's own `step`, which
exists only in Running (R90; U1 `stuck`; log entries 1 and 2). -/
def nextEvent (s : State) : Result :=
  match s.schedule with
  | e :: rest => applyEvent e (s.setSchedule rest)
  | [] => if s.status = .running then dispatcherStep s else .fault .notRunning

/-- One frame of the reference driver with `IPF = n`: `n` steps, then one tick; `IPF = 0` is a configuration error
(R212, R189). -/
def referenceFrame (n : Nat) : Option (List Event) :=
  if n = 0 then none else some (List.replicate n .step ++ [.tick])

/-! ### Placing an instruction -/

/-- Where `withFetchWord` puts an instruction: at `pc`, or at 0x200 if no fetch can begin at `pc`. -/
def placeAt (pc : Word) : Word := if fetchable pc then pc else BitVec.ofNat 16 Config.romBase

/-- The state with the word `op` stored where the next fetch reads it and nothing in the way of that fetch: Running,
and no other event scheduled first (log entry 3). -/
def placeWord (op : Word) (s : State) : State :=
  { s with
    pc := placeAt s.pc
    mem := s.mem.writeBytes s.font (placeAt s.pc).toNat [highByte op, lowByte op]
    status := .running
    schedule := [] }

end Sys2Proof.Machine
end

