-- ==== Sys2Proof/Machine/Step.lean ====
section
/-! DEFINITION. One step of the machine, and an instruction placed where the next step fetches it. -/

namespace Sys2Proof.Machine

/-- One step: the machine's next event (R11). With no host event scheduled this is the dispatcher's `step` (R90). -/
def step (s : State) : Host.Outcome State Fault Refusal := nextEvent s

/-- `s` with the instruction of bits `w` stored where `step` fetches next, so that the next step runs it (log entry 3). -/
def State.withFetchWord (s : State) (nbits w : Nat) : State := placeWord (tableWord nbits w) s

end Sys2Proof.Machine
end

