-- ==== Sys2Proof/Safety.lean ====
section
/-! DEFINITION. The terms claims are stated in: the invariant of R40, the cells of the state one by one, and what it
means that nothing but the named cells changes. -/

namespace Sys2Proof.Machine

/-- The invariants R40 lists for every state the events reach, and the canonical form of memory. -/
abbrev State.Inv (s : State) : Prop :=
  s.mem.wf s.font ∧ s.sp.toNat ≤ 16 ∧ (∀ k : Fin 16, k.val < s.sp.toNat → s.stack[k].toNat ≤ 0x1000) ∧
  s.pc.toNat ≤ 0x10FE ∧ (s.cause = none ↔ s.status ≠ .crashed)

/-- One cell of the state. Every field of `State` is the cells of one or two constructors. -/
inductive Part where
  | reg (x : Reg)
  | index
  | pc
  | sp
  | stackEntry (k : Fin 16)
  | dt
  | st
  | key (k : Key)
  | pixel (x y : Nat)
  | changed
  | status
  | cause
  | byte (a : Nat)
  | font
  | draws
  | schedule
deriving DecidableEq, Repr

/-- The cell holds the same in `t` as in `s`; a byte of memory as read by `State.byte`. -/
def Part.Same (s t : State) : Part → Prop
  | .reg x => t.reg x = s.reg x
  | .index => t.i = s.i
  | .pc => t.pc = s.pc
  | .sp => t.sp = s.sp
  | .stackEntry k => t.stack[k] = s.stack[k]
  | .dt => t.dt = s.dt
  | .st => t.st = s.st
  | .key k => t.key k = s.key k
  | .pixel x y => t.fb.pixel x y = s.fb.pixel x y
  | .changed => t.changed = s.changed
  | .status => t.status = s.status
  | .cause => t.cause = s.cause
  | .byte a => t.byte a = s.byte a
  | .font => t.font = s.font
  | .draws => t.draws = s.draws
  | .schedule => t.schedule = s.schedule

/-- Every cell outside `w` holds the same in `t` as in `s`. -/
def OnlyChanges (w : Set Part) (s t : State) : Prop := ∀ p, p ∉ w → p.Same s t

/-- The cells of the `n` bytes of memory from address `a`. -/
def bytesAt (a n : Nat) : Set Part := {p | ∃ k, k < n ∧ p = .byte (a + k)}

/-- All cells of the framebuffer. -/
def allPixels : Set Part := {p | ∃ x y, p = .pixel x y}

/-- What the byte at address `a` is after the `n` bytes `b 0` to `b (n - 1)` were stored from address `I` up: the stored
byte, or what was there. -/
def State.byteAfter (s : State) (n : Nat) (b : Nat → Nat) (a : Nat) : Nat :=
  if s.i.toNat ≤ a ∧ a < s.i.toNat + n then b (a - s.i.toNat) else (s.byte a).toNat

/-- Digit `k` of the three decimal digits of a byte: hundreds, tens, ones (R143). -/
def decimalDigit (v : Byte) (k : Nat) : Nat :=
  if k = 0 then v.toNat / 100 else if k = 1 then v.toNat / 10 % 10 else v.toNat % 10

/-- Sprite row `r` of the `n` bytes at `I` has its bit for column `c` set: bit `7 - c` of byte `r` (R152). -/
def State.spriteBit (s : State) (n r c : Nat) : Prop :=
  r < n ∧ c < 8 ∧ (s.byte (s.base + r)).getLsbD (7 - c) = true

/-- A sprite of `n` rows with its origin at `(ox, oy)` toggles the pixel `(px, py)`: the pixel is on the screen and
under a set bit of the sprite (R151). -/
def State.spriteHits (s : State) (n ox oy px py : Nat) : Prop :=
  px < 64 ∧ py < 32 ∧ ox ≤ px ∧ oy ≤ py ∧ s.spriteBit n (py - oy) (px - ox)

/-- A sprite of `n` rows at `(ox, oy)` collides: some pixel it toggles is on (R151). -/
def State.collides (s : State) (n ox oy : Nat) : Prop :=
  ∃ px py, s.spriteHits n ox oy px py ∧ s.fb.pixel px py = true

/-- `t` is `s` after `raise Fault(c)`: Crashed, the cause latched, and nothing else changed (R9). -/
def FaultedFrom (s t : State) (c : FaultCause) : Prop :=
  t.status = .crashed ∧ t.cause = some c ∧ OnlyChanges {.status, .cause} s t

/-- The two bytes at `pc` decode to `i`, and the dispatcher may fetch there (R91, R93). -/
def State.Fetches (s : State) (i : Instr) : Prop := fetchable s.pc ∧ decode s.fetchedWord = .ok i

end Sys2Proof.Machine
end

