-- ==== Sys2Proof/Certificates/Slice0/Obligations.lean ====
section
/-! DEFINITION. The statements for the provers, from the numbered rules of the spec. In every statement about `exec`
the state `s` is the one the instruction runs in: its `pc` is already `ia + 2` (R10, R92). -/

open Sys2Proof Sys2Proof.Machine

/-! ### Encoding -/

/-- Decoding the encoding of a well-formed instruction gives it back, with every operand (R71 to R76). -/
def Obligations.DecodeEncode : Prop := ∀ i : Instr, i.WellFormed → decode (encode i) = .ok i

/-- A word that decodes is the encoding of the instruction it decodes to, which is well-formed: no word has two
readings (R76), and no bit is dropped. That no bit is dropped is the strict matching of R75, the spec's own decision
D3 (log entry 10, DESIGN CHOICE): a lenient decoder would take 01E0 to the instruction whose encoding is 00E0. -/
def Obligations.EncodeDecode : Prop :=
  ∀ (w : Word) (i : Instr), decode w = .ok i → i.WellFormed ∧ encode i = w

/-- The decoder is the opcode map: a word decodes to a row's instruction exactly when `w & mask = match` (R76). The
masks of families 0, 5 and 9 are the spec's decision D3 (log entry 10). -/
def Obligations.DecodeIsOpcodeMap : Prop :=
  ∀ w : Word,
    (∀ i, decode w = .ok i → ∃ r ∈ opcodeMap, r.mnemonic = i.mnemonic ∧ w &&& r.mask = r.pattern) ∧
    (∀ r ∈ opcodeMap, w &&& r.mask = r.pattern → ∃ i, decode w = .ok i ∧ i.mnemonic = r.mnemonic)

/-- Words written out from the encodings of R76, at least one for each of the sixteen families, and words R77 calls
illegal in families 0, 8 and F. -/
def Obligations.SpecWordsDecode : Prop :=
  decode 0x00EE = .ok .ret ∧ decode 0x1ABC = .ok (.jp 0xABC) ∧ decode 0x220A = .ok (.call 0x20A) ∧
  decode 0x3100 = .ok (.skipEqImm 1 0x00) ∧ decode 0x4A05 = .ok (.skipNeImm 10 0x05) ∧
  decode 0x5120 = .ok (.skipEqReg 1 2) ∧ decode 0x6105 = .ok (.loadImm 1 0x05) ∧
  decode 0x71FF = .ok (.addImm 1 0xFF) ∧ decode 0x8127 = .ok (.subnReg 1 2) ∧ decode 0x9AB0 = .ok (.skipNeReg 10 11) ∧
  decode 0xA200 = .ok (.loadI 0x200) ∧ decode 0xB500 = .ok (.jpV0 0x500) ∧ decode 0xC30F = .ok (.rnd 3 0x0F) ∧
  decode 0xDAB2 = .ok (.draw 10 11 2) ∧ decode 0xE19E = .ok (.skipKey 1) ∧ decode 0xF30A = .ok (.waitKey 3) ∧
  decode 0xF255 = .ok (.storeRegs 2) ∧ decode 0x0000 = .error .unknownFamily0 ∧
  decode 0x8128 = .error .unknownFamily8 ∧ decode 0xF156 = .error .unknownFamilyF

/-! ### The step -/

/-- A step runs the decoded instruction: in a Running machine whose two bytes at `pc` decode to `i`, the step is `exec i`
with `pc` advanced by 2 (R91 to R94). The fetched word has its high byte at the lower address (R58). That a step may be
the machine's own or one held in `schedule` is the model's choice (log entry 1, DESIGN CHOICE). -/
def Obligations.StepRunsDecoded : Prop :=
  ∀ (s : State) (i : Instr), s.status = .running → s.Fetches i →
    (s.schedule = [] → step s = exec i s.advance) ∧
    (∀ rest, s.schedule = .step :: rest → step s = exec i (s.setSchedule rest).advance) ∧
    s.advance.pc.toNat = s.pc.toNat + 2 ∧ OnlyChanges {.pc} s s.advance ∧
    s.fetchedWord.toNat = (s.byte s.pc.toNat).toNat * 256 + (s.byte (s.pc.toNat + 1)).toNat

/-- A scheduled event is the machine's next event (model's own schedule, log entry 1). -/
def Obligations.StepTakesScheduledEvent : Prop :=
  ∀ (s : State) (e : Event) (rest : List Event), s.schedule = e :: rest →
    step s = applyEvent e (s.setSchedule rest)

/-- A fetched word that is no instruction raises UnknownOpcode: Crashed, `pc` two further (decision D7, log entry 8),
nothing else changed (R95, R172). So for the step as an event, for the machine's own step with nothing scheduled, and for
a step held in `schedule`, which is taken out of it (model's own schedule, log entry 1). -/
def Obligations.UnknownOpcodeFaults : Prop :=
  ∀ (s : State) (e : DecodeError), s.status = .running → fetchable s.pc → decode s.fetchedWord = .error e →
    ∃ t, applyEvent .step s = .next t ∧ (s.schedule = [] → step s = .next t) ∧
      (∀ rest, s.schedule = .step :: rest → step s = .next (t.setSchedule rest)) ∧
      t.pc.toNat = s.pc.toNat + 2 ∧ t.status = .crashed ∧ t.cause = some .unknownOpcode ∧
      OnlyChanges {.pc, .status, .cause} s t

/-- A step that begins with `pc` above 4094 raises FetchOutOfBounds and changes nothing else, `pc` included (R91, R175;
decision D4, log entry 9). So for the step as an event, for the machine's own step with nothing scheduled, and for a step
held in `schedule`, which is taken out of it (model's own schedule, log entry 1). -/
def Obligations.FetchOutOfBoundsFaults : Prop :=
  ∀ s : State, s.status = .running → 4094 < s.pc.toNat →
    ∃ t, applyEvent .step s = .next t ∧ (s.schedule = [] → step s = .next t) ∧
      (∀ rest, s.schedule = .step :: rest → step s = .next (t.setSchedule rest)) ∧
      FaultedFrom s t .fetchOutOfBounds

/-- Outside Running a requested step changes nothing, and the machine has no step of its own (R90; decision D15, log
entry 2). -/
def Obligations.NoStepOutsideRunning : Prop :=
  ∀ s : State, s.status ≠ .running →
    applyEvent .step s = .next s ∧ (s.schedule = [] → step s = .fault .notRunning)

/-- A store is seen by the very next fetch (R63), wherever it lies: after `Fx55` or `Fx33` within bounds, each of the two
bytes of the word fetched next is the byte the instruction stored there, or the byte that was there if it stored none. -/
def Obligations.StoreSeenByNextFetch : Prop :=
  ∀ (s : State) (x : Reg),
    (s.i.toNat + x.val + 1 ≤ 4096 →
      ∃ t, exec (.storeRegs x) s = .next t ∧ t.pc = s.pc ∧
        t.fetchedWord.toNat =
          s.byteAfter (x.val + 1) (fun k => (s.reg (Fin.ofNat 16 k)).toNat) s.pc.toNat * 256 +
          s.byteAfter (x.val + 1) (fun k => (s.reg (Fin.ofNat 16 k)).toNat) (s.pc.toNat + 1)) ∧
    (s.i.toNat + 3 ≤ 4096 →
      ∃ t, exec (.storeBcd x) s = .next t ∧ t.pc = s.pc ∧
        t.fetchedWord.toNat =
          s.byteAfter 3 (decimalDigit (s.reg x)) s.pc.toNat * 256 +
          s.byteAfter 3 (decimalDigit (s.reg x)) (s.pc.toNat + 1))

/-! ### Control transfer -/

/-- `1addr`: `pc <- addr`, nothing else (R101). -/
def Obligations.JumpResult : Prop :=
  ∀ (s : State) (addr : Word), ∃ t, exec (.jp addr) s = .next t ∧ t.pc = addr ∧ OnlyChanges {.pc} s t

/-- `Bxxx`: `pc` is the sum of `addr` and `V[0]`, not reduced; nothing else (R107). -/
def Obligations.JumpOffsetResult : Prop :=
  ∀ (s : State) (addr : Word), (Instr.jpV0 addr).WellFormed →
    ∃ t, exec (.jpV0 addr) s = .next t ∧ t.pc.toNat = addr.toNat + (s.reg 0).toNat ∧ OnlyChanges {.pc} s t

/-- `2addr` with room on the stack: the advanced `pc` to `stack[sp]`, `sp` up by one, `pc <- addr` (R102, R28; slot
discipline D14, log entry 14). -/
def Obligations.CallResult : Prop :=
  ∀ (s : State) (addr : Word) (k : Fin 16), s.sp.toNat = k.val →
    ∃ t, exec (.call addr) s = .next t ∧ t.stack[k] = s.pc ∧ t.sp.toNat = s.sp.toNat + 1 ∧ t.pc = addr ∧
      OnlyChanges {.stackEntry k, .sp, .pc} s t

/-- `00EE` with a nonempty stack: `sp` down by one, `pc` the entry it then indexes; the entry stays (R100, R28; slot
discipline D14, log entry 14). -/
def Obligations.ReturnResult : Prop :=
  ∀ (s : State) (k : Fin 16), s.sp.toNat = k.val + 1 →
    ∃ t, exec .ret s = .next t ∧ t.sp.toNat = k.val ∧ t.pc = s.stack[k] ∧ OnlyChanges {.sp, .pc} s t

/-- `2addr` with 16 entries raises StackOverflow, `00EE` with an empty stack StackUnderflow; no entry, not `sp`, not `pc`
is written (R100, R102, R173, R174). With `sp` above 16, which no run reaches (R27, R40), both stop by name (model's
choice, log entry 15). -/
def Obligations.StackFaults : Prop :=
  ∀ (s : State) (addr : Word),
    (s.sp = 16 → ∃ t, exec (.call addr) s = .next t ∧ FaultedFrom s t .stackOverflow) ∧
    (s.sp = 0 → ∃ t, exec .ret s = .next t ∧ FaultedFrom s t .stackUnderflow) ∧
    (16 < s.sp.toNat → exec (.call addr) s = .fault .noStackEntry ∧ exec .ret s = .fault .noStackEntry)

/-- A return executed after a call, with nothing done between, resumes at the instruction after the call, with the
stack pointer as before; the one cell that differs is the entry the call wrote (R92, R100, R102; which entry that is, and
that the return leaves it, is the slot discipline D14, log entry 14). -/
def Obligations.ReturnUndoesCall : Prop :=
  ∀ (s : State) (addr : Word) (k : Fin 16), s.sp.toNat = k.val →
    ∃ t u, exec (.call addr) s = .next t ∧ exec .ret t.advance = .next u ∧ OnlyChanges {.stackEntry k} s u

/-- `3xkk`, `4xkk`: `pc` two further exactly when `V[x]` equals, or does not equal, `kk`; nothing else (R103, R104). -/
def Obligations.SkipImmResult : Prop :=
  ∀ (s : State) (x : Reg) (kk : Byte),
    (∃ t, exec (.skipEqImm x kk) s = .next t ∧ t.pc = (if s.reg x = kk then s.pc + 2 else s.pc) ∧
      OnlyChanges {.pc} s t) ∧
    (∃ t, exec (.skipNeImm x kk) s = .next t ∧ t.pc = (if s.reg x = kk then s.pc else s.pc + 2) ∧
      OnlyChanges {.pc} s t)

/-- `5xy0`, `9xy0`: `pc` two further exactly when the registers are equal, or differ; nothing else (R105, R106). -/
def Obligations.SkipRegResult : Prop :=
  ∀ (s : State) (x y : Reg),
    (∃ t, exec (.skipEqReg x y) s = .next t ∧ t.pc = (if s.reg x = s.reg y then s.pc + 2 else s.pc) ∧
      OnlyChanges {.pc} s t) ∧
    (∃ t, exec (.skipNeReg x y) s = .next t ∧ t.pc = (if s.reg x = s.reg y then s.pc else s.pc + 2) ∧
      OnlyChanges {.pc} s t)

/-! ### Load, arithmetic, logic, random -/

/-- `6xkk` and `8xy0`: the immediate, or `V[y]`, to `V[x]`; nothing else, VF included unless `x = 15` (R120, R122). -/
def Obligations.LoadAndCopyResult : Prop :=
  ∀ (s : State) (x y : Reg) (kk : Byte),
    (∃ t, exec (.loadImm x kk) s = .next t ∧ t.reg x = kk ∧ OnlyChanges {.reg x} s t) ∧
    (∃ t, exec (.copy x y) s = .next t ∧ t.reg x = s.reg y ∧ OnlyChanges {.reg x} s t)

/-- `7xkk`: the sum modulo 256 to `V[x]`; VF is not written as a flag (R121). -/
def Obligations.AddImmResult : Prop :=
  ∀ (s : State) (x : Reg) (kk : Byte),
    ∃ t, exec (.addImm x kk) s = .next t ∧ (t.reg x).toNat = ((s.reg x).toNat + kk.toNat) % 256 ∧
      OnlyChanges {.reg x} s t

/-- `8xy1`, `8xy2`, `8xy3`: OR, AND, XOR on each of the 8 bits; nothing but `V[x]` is written (R123, R124, R125). -/
def Obligations.LogicResult : Prop :=
  ∀ (s : State) (x y : Reg),
    (∃ t, exec (.orReg x y) s = .next t ∧
      (∀ j, (t.reg x).getLsbD j = ((s.reg x).getLsbD j || (s.reg y).getLsbD j)) ∧ OnlyChanges {.reg x} s t) ∧
    (∃ t, exec (.andReg x y) s = .next t ∧
      (∀ j, (t.reg x).getLsbD j = ((s.reg x).getLsbD j && (s.reg y).getLsbD j)) ∧ OnlyChanges {.reg x} s t) ∧
    (∃ t, exec (.xorReg x y) s = .next t ∧
      (∀ j, (t.reg x).getLsbD j = ((s.reg x).getLsbD j ^^ (s.reg y).getLsbD j)) ∧ OnlyChanges {.reg x} s t)

/-- `8xy4`: the sum modulo 256 to `V[x]`, the carry to VF. With `x = 15` VF is the carry (decision D8, log entry 11);
R126 for the rest. -/
def Obligations.AddRegResult : Prop :=
  ∀ (s : State) (x y : Reg),
    ∃ t, exec (.addReg x y) s = .next t ∧
      (x ≠ vf → (t.reg x).toNat = ((s.reg x).toNat + (s.reg y).toNat) % 256) ∧
      (t.reg vf).toNat = (if (s.reg x).toNat + (s.reg y).toNat > 255 then 1 else 0) ∧
      OnlyChanges {.reg x, .reg vf} s t

/-- `8xy5`: `V[x] - V[y]` modulo 256 to `V[x]`, not-borrow to VF. With `x = 15` VF is the flag (decision D8, log
entry 11); R127 for the rest. -/
def Obligations.SubRegResult : Prop :=
  ∀ (s : State) (x y : Reg),
    ∃ t, exec (.subReg x y) s = .next t ∧
      (x ≠ vf → ((t.reg x).toNat : Int) = ((s.reg x).toNat - (s.reg y).toNat : Int) % 256) ∧
      (t.reg vf).toNat = (if (s.reg x).toNat ≥ (s.reg y).toNat then 1 else 0) ∧
      OnlyChanges {.reg x, .reg vf} s t

/-- `8xy7`: `V[y] - V[x]` modulo 256 to `V[x]`, not-borrow to VF. With `x = 15` VF is the flag (decision D8, log
entry 11); R129 for the rest. -/
def Obligations.SubnRegResult : Prop :=
  ∀ (s : State) (x y : Reg),
    ∃ t, exec (.subnReg x y) s = .next t ∧
      (x ≠ vf → ((t.reg x).toNat : Int) = ((s.reg y).toNat - (s.reg x).toNat : Int) % 256) ∧
      (t.reg vf).toNat = (if (s.reg y).toNat ≥ (s.reg x).toNat then 1 else 0) ∧
      OnlyChanges {.reg x, .reg vf} s t

/-- `8xy6`, `8xyE`: `V[x]` shifted by one, whatever `y` is, and the bit shifted out to VF. With `x = 15` VF is the flag
(decision D8, log entry 11); R128 and R130 for the rest. -/
def Obligations.ShiftResult : Prop :=
  ∀ (s : State) (x y : Reg),
    (∃ t, exec (.shr x y) s = .next t ∧ (x ≠ vf → (t.reg x).toNat = (s.reg x).toNat / 2) ∧
      (t.reg vf).toNat = (s.reg x).toNat % 2 ∧ OnlyChanges {.reg x, .reg vf} s t) ∧
    (∃ t, exec (.shl x y) s = .next t ∧ (x ≠ vf → (t.reg x).toNat = (s.reg x).toNat * 2 % 256) ∧
      (t.reg vf).toNat = (s.reg x).toNat / 128 ∧ OnlyChanges {.reg x, .reg vf} s t)

/-- `Cxkk`: one byte is drawn and its AND with `kk` goes to `V[x]`; a bit clear in `kk` is clear in the result, a bit set
in `kk` is the drawn byte's. The drawn byte is a free value (log entry 4; R131). -/
def Obligations.RandomResult : Prop :=
  ∀ (s : State) (x : Reg) (kk : Byte),
    ∃ t, exec (.rnd x kk) s = .next t ∧ t.draws = s.draws + 1 ∧
      (∀ j, (t.reg x).getLsbD j = ((Config.randomByte s.draws).getLsbD j && kk.getLsbD j)) ∧
      OnlyChanges {.reg x, .draws} s t

/-! ### Index register and memory -/

/-- `Axxx`, `Fx29`: the address, or five times the low nibble of `V[x]`, to `I`; nothing else (R140, R142). -/
def Obligations.LoadIndexResult : Prop :=
  ∀ (s : State) (addr : Word) (x : Reg),
    (∃ t, exec (.loadI addr) s = .next t ∧ t.i = addr ∧ OnlyChanges {.index} s t) ∧
    (∃ t, exec (.glyph x) s = .next t ∧ t.i.toNat = 5 * ((s.reg x).toNat % 16) ∧ OnlyChanges {.index} s t)

/-- `Fx1E`: the sum to `I`, modulo 65536 (decision D9, log entry 12); VF is not written (R141). -/
def Obligations.AddIndexResult : Prop :=
  ∀ (s : State) (x : Reg),
    ∃ t, exec (.addI x) s = .next t ∧ t.i.toNat = (s.i.toNat + (s.reg x).toNat) % 65536 ∧
      OnlyChanges {.index} s t

/-- `Fx33` within bounds: hundreds, tens and ones of `V[x]` at `I`, `I+1`, `I+2`; nothing else (R143). -/
def Obligations.StoreBcdResult : Prop :=
  ∀ (s : State) (x : Reg), s.i.toNat + 3 ≤ 4096 →
    ∃ t, exec (.storeBcd x) s = .next t ∧
      (t.byte s.i.toNat).toNat = (s.reg x).toNat / 100 ∧
      (t.byte (s.i.toNat + 1)).toNat = (s.reg x).toNat / 10 % 10 ∧
      (t.byte (s.i.toNat + 2)).toNat = (s.reg x).toNat % 10 ∧
      OnlyChanges (bytesAt s.i.toNat 3) s t

/-- `Fx55` within bounds: `V[k]` at `I + k` for `k` from 0 to `x`; nothing else, `I` included (R144; decision D10, log
entry 13). -/
def Obligations.StoreRegsResult : Prop :=
  ∀ (s : State) (x : Reg), s.i.toNat + x.val + 1 ≤ 4096 →
    ∃ t, exec (.storeRegs x) s = .next t ∧
      (∀ k : Reg, k ≤ x → t.byte (s.i.toNat + k.val) = s.reg k) ∧
      OnlyChanges (bytesAt s.i.toNat (x.val + 1)) s t

/-- `Fx65` within bounds: `V[k]` from `I + k` for `k` from 0 to `x`; nothing else, `I` included (R145; decision D10, log
entry 13). -/
def Obligations.LoadRegsResult : Prop :=
  ∀ (s : State) (x : Reg), s.i.toNat + x.val + 1 ≤ 4096 →
    ∃ t, exec (.loadRegs x) s = .next t ∧
      (∀ k : Reg, k ≤ x → t.reg k = s.byte (s.i.toNat + k.val)) ∧
      OnlyChanges {p | ∃ k : Reg, k ≤ x ∧ p = .reg k} s t

/-- Beyond the end of memory `Fx33`, `Fx55`, `Fx65` and `Dxyn` raise MemoryOutOfBounds and access nothing (R57, R175;
decisions D5 and D6, log entry 9). -/
def Obligations.MemoryOutOfBoundsFaults : Prop :=
  ∀ (s : State) (x y : Reg) (n : Nat),
    (4096 < s.i.toNat + 3 → ∃ t, exec (.storeBcd x) s = .next t ∧ FaultedFrom s t .memoryOutOfBounds) ∧
    (4096 < s.i.toNat + x.val + 1 → ∃ t, exec (.storeRegs x) s = .next t ∧ FaultedFrom s t .memoryOutOfBounds) ∧
    (4096 < s.i.toNat + x.val + 1 → ∃ t, exec (.loadRegs x) s = .next t ∧ FaultedFrom s t .memoryOutOfBounds) ∧
    (0 < n → 4096 < s.i.toNat + n → ∃ t, exec (.draw x y n) s = .next t ∧ FaultedFrom s t .memoryOutOfBounds)

/-- `Fx65` after `Fx55` with the same `I` and `x` loads back what was stored: the state is that after the store
(R144, R145; `I` unchanged by decision D10, log entry 13). -/
def Obligations.LoadRegsUndoesStoreRegs : Prop :=
  ∀ (s : State) (x : Reg), s.i.toNat + x.val + 1 ≤ 4096 →
    ∃ t, exec (.storeRegs x) s = .next t ∧ exec (.loadRegs x) t = .next t

/-- Memory in canonical form is determined by what its bytes read as, whatever the font (R35, R50; the form is the model's,
log entry 16). -/
def Obligations.MemoryCanonical : Prop :=
  ∀ (f : Font) (m n : Memory), m.wf f → n.wf f → (∀ a, m.read f a = n.read f a) → m = n

/-! ### Display -/

/-- `00E0`: every pixel off, the changed flag set, nothing else (R150). -/
def Obligations.ClearResult : Prop :=
  ∀ s : State, ∃ t, exec .cls s = .next t ∧ (∀ x y, t.fb.pixel x y = false) ∧ t.changed = true ∧
    OnlyChanges ({.changed} ∪ allPixels) s t

/-- `Dxyn` within bounds: the on-screen pixels under set sprite bits are inverted and no other; VF is 1 if one of them
was on and 0 if none was; the changed flag is set; nothing else changes (R151, R152; sprite geometry D11 and sampling
order D12, log entries 17 and 11). With `n = 0` it completes whatever `I` is. -/
def Obligations.DrawResult : Prop :=
  ∀ (s : State) (x y : Reg) (n : Nat), n = 0 ∨ s.i.toNat + n ≤ 4096 →
    ∃ t, exec (.draw x y n) s = .next t ∧
      (∀ px py, s.spriteHits n ((s.reg x).toNat % 64) ((s.reg y).toNat % 32) px py →
        t.fb.pixel px py = !s.fb.pixel px py) ∧
      (∀ px py, ¬ s.spriteHits n ((s.reg x).toNat % 64) ((s.reg y).toNat % 32) px py →
        t.fb.pixel px py = s.fb.pixel px py) ∧
      (s.collides n ((s.reg x).toNat % 64) ((s.reg y).toNat % 32) → t.reg vf = 1) ∧
      (¬ s.collides n ((s.reg x).toNat % 64) ((s.reg y).toNat % 32) → t.reg vf = 0) ∧
      t.changed = true ∧ OnlyChanges ({.reg vf, .changed} ∪ allPixels) s t

/-- Drawing the same sprite twice, with the same `V[x]`, `V[y]`, `I`, `n` and sprite bytes, restores the framebuffer;
and where the first draw met no pixel that was on, the second collides exactly if the first set a pixel (R153). -/
def Obligations.DrawTwiceRestores : Prop :=
  ∀ (s t u : State) (x y : Reg) (n : Nat), n = 0 ∨ s.i.toNat + n ≤ 4096 → exec (.draw x y n) s = .next t →
    u.reg x = s.reg x → u.reg y = s.reg y → u.i = s.i →
    (∀ r, r < n → u.byte (s.i.toNat + r) = s.byte (s.i.toNat + r)) →
    (∀ px py, u.fb.pixel px py = t.fb.pixel px py) →
    ∃ w, exec (.draw x y n) u = .next w ∧ (∀ px py, w.fb.pixel px py = s.fb.pixel px py) ∧
      (t.reg vf = 0 →
        (w.reg vf = 1 ↔ ∃ px py, s.fb.pixel px py = false ∧ t.fb.pixel px py = true))

/-! ### Keys and timers -/

/-- `Ex9E`, `ExA1`: `pc` two further exactly when the key of the low nibble of `V[x]` is, or is not, pressed; nothing else
(R160, R161). -/
def Obligations.SkipKeyResult : Prop :=
  ∀ (s : State) (x : Reg) (k : Key), k.val = (s.reg x).toNat % 16 →
    (∃ t, exec (.skipKey x) s = .next t ∧ t.pc = (if s.key k = true then s.pc + 2 else s.pc) ∧
      OnlyChanges {.pc} s t) ∧
    (∃ t, exec (.skipNoKey x) s = .next t ∧ t.pc = (if s.key k = true then s.pc else s.pc + 2) ∧
      OnlyChanges {.pc} s t)

/-- `Fx0A`: with key `k` the least one pressed, `V[x]` becomes `k` and `pc` stays; with none pressed, `pc` goes back by 2
and nothing else changes (R162). -/
def Obligations.WaitKeyResult : Prop :=
  ∀ (s : State) (x : Reg),
    (∀ k : Key, s.key k = true → (∀ j : Key, j < k → s.key j = false) →
      ∃ t, exec (.waitKey x) s = .next t ∧ (t.reg x).toNat = k.val ∧ OnlyChanges {.reg x} s t) ∧
    ((∀ k : Key, s.key k = false) →
      ∃ t, exec (.waitKey x) s = .next t ∧ t.pc = s.pc - 2 ∧ OnlyChanges {.pc} s t)

/-- The `Fx0A` spin: with no key pressed, a step of a Running machine that is at a `Fx0A` leaves the whole state as it was
(R162, R211). So for the step as an event, for the machine's own step with nothing scheduled, and for a step held in
`schedule`, which is taken out of it (model's own schedule, log entry 1). -/
def Obligations.WaitKeySpins : Prop :=
  ∀ (s : State) (x : Reg), s.status = .running → s.Fetches (.waitKey x) → (∀ k : Key, s.key k = false) →
    applyEvent .step s = .next s ∧ (s.schedule = [] → step s = .next s) ∧
    (∀ rest, s.schedule = .step :: rest → step s = .next (s.setSchedule rest))

/-- `Fx07`, `Fx15`, `Fx18`: `V[x]` from `DT`, `DT` from `V[x]`, `ST` from `V[x]`; nothing else (R163, R164, R165). -/
def Obligations.TimerInstructionsResult : Prop :=
  ∀ (s : State) (x : Reg),
    (∃ t, exec (.readDelay x) s = .next t ∧ t.reg x = s.dt ∧ OnlyChanges {.reg x} s t) ∧
    (∃ t, exec (.setDelay x) s = .next t ∧ t.dt = s.reg x ∧ OnlyChanges {.dt} s t) ∧
    (∃ t, exec (.setSound x) s = .next t ∧ t.st = s.reg x ∧ OnlyChanges {.st} s t)

/-! ### The other events -/

/-- `tick`: each timer down by one, a zero stays zero, nothing else (R166, R29), in every status (the spec's decision D27,
log entry 18). -/
def Obligations.TickResult : Prop :=
  ∀ s : State, ∃ t, applyEvent .tick s = .next t ∧ t.dt.toNat = s.dt.toNat - 1 ∧ t.st.toNat = s.st.toNat - 1 ∧
    OnlyChanges {.dt, .st} s t

/-- After `n` ticks a timer that nothing rewrites is down by `n`, never below 0: one loaded with `v` is 0 from the `v`-th
tick on and not before (R166). -/
def Obligations.TicksCountDown : Prop :=
  ∀ (s : State) (n : Nat),
    (tick^[n] s).dt.toNat = s.dt.toNat - n ∧ (tick^[n] s).st.toNat = s.st.toNat - n

/-- `set_key`, `clear_changed` and `stop`: the one bit, flag or status each writes, and nothing else (R183). That the first
two act in every status is decision D27, and that `stop` is ignored outside Running is D18 (log entry 18). -/
def Obligations.HostWritesResult : Prop :=
  ∀ (s : State) (k : Key) (b : Bool),
    (∃ t, applyEvent (.setKey k b) s = .next t ∧ t.key k = b ∧ OnlyChanges {.key k} s t) ∧
    (∃ t, applyEvent .clearChanged s = .next t ∧ t.changed = false ∧ OnlyChanges {.changed} s t) ∧
    (s.status = .running → ∃ t, applyEvent .stop s = .next t ∧ t.status = .stopped ∧ OnlyChanges {.status} s t) ∧
    (s.status ≠ .running → applyEvent .stop s = .next s)

/-- `load` of a stream of at most 3584 bytes into an Uninitialized machine: byte `k` at 0x200 + `k`, Running, nothing else;
of a longer stream, or in another status, it changes nothing (R204, R176; decision D19, log entry 18). -/
def Obligations.LoadResult : Prop :=
  ∀ (s : State) (bytes : List Byte),
    (s.status = .uninitialized → bytes.length ≤ 3584 →
      ∃ t, applyEvent (.load bytes) s = .next t ∧ t.status = .running ∧
        (∀ k, k < bytes.length → t.byte (0x200 + k) = bytes.getD k 0) ∧
        OnlyChanges ({.status} ∪ bytesAt 0x200 bytes.length) s t) ∧
    (s.status ≠ .uninitialized ∨ 3584 < bytes.length → applyEvent (.load bytes) s = .next s)

/-- `reset` gives every component its reset value, memory that of the machine's font (R200). That it does so in any status
is the spec's own decision D17 (log entry 18, DESIGN CHOICE); the model's own `draws` and `schedule` stay (log entry 5). -/
def Obligations.ResetEventResult : Prop :=
  ∀ s : State, ∃ t, applyEvent .reset s = .next t ∧ t.draws = s.draws ∧ t.schedule = s.schedule ∧
    OnlyChanges {.draws, .schedule} (State.resetWith s.font) t

/-- The state after reset, for every value `f` of the parameter `FONT`: zero everywhere but `pc` at 0x200 and the font at 0
to 79 of memory; Uninitialized, no cause (R38). The keys and the changed flag rest on decision D16 (log entry 7).
`State.reset` is that state for the default font, whose bytes rest on general knowledge (R54, log entry 6). -/
def Obligations.ResetState : Prop :=
  (∀ f : Font,
    (∀ x, (State.resetWith f).reg x = 0) ∧ (State.resetWith f).i = 0 ∧ (State.resetWith f).pc = 0x200 ∧
    (State.resetWith f).sp = 0 ∧ (∀ k : Fin 16, (State.resetWith f).stack[k] = 0) ∧ (State.resetWith f).dt = 0 ∧
    (State.resetWith f).st = 0 ∧ (∀ k, (State.resetWith f).key k = false) ∧
    (∀ x y, (State.resetWith f).fb.pixel x y = false) ∧ (State.resetWith f).changed = false ∧
    (State.resetWith f).status = .uninitialized ∧ (State.resetWith f).cause = none ∧
    (∀ a, (h : a < 80) → (State.resetWith f).byte a = f[a]) ∧ (∀ a, 80 ≤ a → (State.resetWith f).byte a = 0)) ∧
  State.reset = State.resetWith defaultFont

/-- Boot: after `reset` and a `load` of a stream that begins with a well-formed instruction, whatever the font and whatever
the state before, the machine is Running at 0x200 and its step runs that instruction (R201, R202, R204). That the reset
may come in any status is decision D17 (log entry 18); that the step is an event, or the machine's own with nothing
scheduled, is the model's choice (log entry 1). It does not rest on the schedule that `State.reset` holds (log entry 5). -/
def Obligations.BootRunsFirstInstruction : Prop :=
  ∀ (s : State) (i : Instr) (rest : List Byte), i.WellFormed → rest.length + 2 ≤ 3584 →
    ∃ r t, applyEvent .reset s = .next r ∧ applyEvent (.load (encodeBytes i ++ rest)) r = .next t ∧
      t.status = .running ∧ t.pc = 0x200 ∧ applyEvent .step t = exec i t.advance ∧
      (t.schedule = [] → step t = exec i t.advance)

/-! ### Rules about the whole machine -/

/-- No instruction writes the key latch or clears the changed flag (R30, R32, R39), and none touches the model's own list
of host events (model's own schedule, log entry 1, DESIGN CHOICE). -/
def Obligations.ExecKeepsHostState : Prop :=
  ∀ (i : Instr) (s t : State), exec i s = .next t →
    (∀ k, t.key k = s.key k) ∧ (s.changed = true → t.changed = true) ∧ t.schedule = s.schedule

/-- `I` is written by `Axxx`, `Fx1E` and `Fx29` and by no other instruction (R23; that `Fx55` and `Fx65` leave it is
decision D10, log entry 13). -/
def Obligations.OnlyIndexInstructionsWriteI : Prop :=
  ∀ (i : Instr) (s t : State), exec i s = .next t → t.i ≠ s.i →
    (∃ addr, i = .loadI addr) ∨ (∃ x, i = .addI x) ∨ (∃ x, i = .glyph x)

/-- Memory is written by `Fx33` and `Fx55` and by no other instruction (R52). -/
def Obligations.OnlyStoresWriteMemory : Prop :=
  ∀ (i : Instr) (s t : State), exec i s = .next t → (∃ a, t.byte a ≠ s.byte a) →
    (∃ x, i = .storeBcd x) ∨ (∃ x, i = .storeRegs x)

/-- `sp` and the stack are written by `2addr` and `00EE` and by no other instruction (R27, R28). That the return writes no
entry, a popped one keeping its value, is the spec's own decision D14 (log entry 14, DESIGN CHOICE). -/
def Obligations.OnlyCallReturnMoveStack : Prop :=
  ∀ (i : Instr) (s t : State), exec i s = .next t →
    (t.sp ≠ s.sp → i = .ret ∨ ∃ addr, i = .call addr) ∧
    ((∃ k : Fin 16, t.stack[k] ≠ s.stack[k]) → ∃ addr, i = .call addr)

/-- A step of the dispatcher never decrements a timer: `DT` is written by `Fx15` alone and `ST` by `Fx18` alone (R29,
R94); pixels are written by `00E0` and `Dxyn` alone (R31). That a random byte is drawn by `Cxkk` alone is the spec's own
decision D23 in R131, stated of the model's own counter `draws` (log entry 4, DESIGN CHOICE). -/
def Obligations.OnlyTheirWritersWriteTimersPixelsDraws : Prop :=
  ∀ (i : Instr) (s t : State), exec i s = .next t →
    (t.dt ≠ s.dt → ∃ x, i = .setDelay x) ∧ (t.st ≠ s.st → ∃ x, i = .setSound x) ∧
    ((∃ x y, t.fb.pixel x y ≠ s.fb.pixel x y) → i = .cls ∨ ∃ x y n, i = .draw x y n) ∧
    (t.draws ≠ s.draws → ∃ x kk, i = .rnd x kk)

/-- Where `pc` goes: of the instructions that are no jump, call, return, skip or key wait, none moves `pc` from `ia + 2`
(R25). -/
def Obligations.OnlyFlowMovesPc : Prop :=
  ∀ (i : Instr) (s t : State), exec i s = .next t → t.pc ≠ s.pc →
    i.mnemonic ∈ ["1addr", "2addr", "00EE", "Bxxx", "3xkk", "4xkk", "5xy0", "9xy0", "Ex9E", "ExA1", "Fx0A"]

/-- An instruction either completes with `status` and `cause` as they were, or raises its one fault and changes nothing
else: faults are precise, and only `2addr`, `00EE`, `Dxyn`, `Fx33`, `Fx55` and `Fx65` can raise one (R96, R171, R180; the
last four by decision D5, log entry 9; the `cause` latch is D20, log entry 19). -/
def Obligations.ExecCompletesOrFaults : Prop :=
  ∀ (i : Instr) (s t : State), exec i s = .next t →
    (t.status = s.status ∧ t.cause = s.cause) ∨
    (FaultedFrom s t .stackOverflow ∧ i.mnemonic = "2addr") ∨
    (FaultedFrom s t .stackUnderflow ∧ i.mnemonic = "00EE") ∨
    (FaultedFrom s t .memoryOutOfBounds ∧ i.mnemonic ∈ ["Dxyn", "Fx33", "Fx55", "Fx65"])

/-- Crashed and Stopped are terminal: every event but `reset` leaves all but the timers, the keys and the changed flag
(R33, R40, R178, R188). What the spec decides itself here: a requested step changes nothing (D15, log entry 2); `stop`
and `load` change nothing; `tick`, `set_key` and `clear_changed` still act (D18, D19, D27, log entry 18). -/
def Obligations.CrashedStoppedAreTerminal : Prop :=
  ∀ (e : Event) (s : State), s.status = .crashed ∨ s.status = .stopped → e ≠ .reset →
    ∃ t, applyEvent e s = .next t ∧ OnlyChanges ({.dt, .st, .changed} ∪ {p | ∃ k, p = .key k}) s t

/-- From a state that meets the invariant of R40 every event completes with a next state, and the step of a Running machine
leaves it Running or Crashed (R96; a step requested outside Running changes nothing by decision D15, log entry 2). So the
machine moves whenever it is Running or an event is scheduled (model's own schedule, log entry 1). -/
def Obligations.StepAlwaysCompletes : Prop :=
  ∀ s : State, s.Inv →
    (∀ e : Event, ∃ t, applyEvent e s = .next t ∧
      (e = .step → s.status = .running → t.status = .running ∨ t.status = .crashed)) ∧
    (s.status = .running → s.schedule = [] → ∃ t, step s = .next t ∧ (t.status = .running ∨ t.status = .crashed)) ∧
    (s.schedule ≠ [] → ∃ t, step s = .next t)

/-- The invariants of R40, and the canonical form of memory (log entry 16), hold after every step of a state that meets
them, whatever event the step is: `reset`, `load`, `step`, `tick`, `set_key`, `clear_changed` or `stop`, taken from the
model's own schedule (log entry 1) or the machine's own step. -/
def Obligations.StepKeepsInvariant : Prop := ∀ s t : State, s.Inv → step s = .next t → t.Inv

/-- The invariants of R40, and the canonical form of memory (log entry 16), hold after reset, whatever the font. -/
def Obligations.ResetMeetsInvariant : Prop := State.reset.Inv ∧ ∀ f : Font, (State.resetWith f).Inv

/-- `FONT` is a parameter of the machine and no state of it (R5, R37): no instruction, no event and no step changes it,
`reset` included. That it stands in a field is the model's choice (log entry 23). -/
def Obligations.FontIsParameter : Prop :=
  (∀ (i : Instr) (s t : State), exec i s = .next t → t.font = s.font) ∧
  (∀ (e : Event) (s t : State), applyEvent e s = .next t → t.font = s.font) ∧
  (∀ s t : State, step s = .next t → t.font = s.font)
end

