-- ==== Sys2Proof/Laws/Memory.lean ====
section
/-! SUPPORT. Memory: read after write, and that every memory operation keeps the canonical form. -/

namespace Sys2Proof.Machine

variable (f : Font)

theorem Memory.read_erase_same (m : Memory) (a : Nat) : (m.erase a).read f a = resetByte f a := by
  induction m with
  | nil => rfl
  | cons c rest ih =>
    obtain ⟨k, b⟩ := c
    by_cases h : k = a <;> simp_all [Memory.erase, Memory.read]

theorem Memory.read_erase_other (m : Memory) {a x : Nat} (hx : x ≠ a) : (m.erase a).read f x = m.read f x := by
  induction m with
  | nil => rfl
  | cons c rest ih =>
    obtain ⟨k, b⟩ := c
    by_cases h : k = a
    · have : k ≠ x := fun e => hx (e.symm.trans h)
      simp_all [Memory.erase, Memory.read]
    · simp_all [Memory.erase, Memory.read]

theorem Memory.read_insert_other (m : Memory) {a x : Nat} (b : Byte) (hx : x ≠ a) :
    (m.insert a b).read f x = m.read f x := by
  have ha : a ≠ x := fun e => hx e.symm
  induction m with
  | nil => simp [Memory.insert, Memory.read, ha]
  | cons c rest ih =>
    obtain ⟨k, d⟩ := c
    by_cases h : a < k
    · simp_all [Memory.insert, Memory.read]
    · rw [Memory.insert, if_neg h]
      simp_all [Memory.read]

theorem Memory.read_insert_same (m : Memory) (a : Nat) (b : Byte) (hm : ∀ c ∈ m, c.1 ≠ a) :
    (m.insert a b).read f a = b := by
  induction m with
  | nil => simp [Memory.insert, Memory.read]
  | cons c rest ih =>
    obtain ⟨k, d⟩ := c
    by_cases h : a < k
    · simp_all [Memory.insert, Memory.read]
    · rw [Memory.insert, if_neg h]
      simp_all [Memory.read]

theorem Memory.erase_absent (m : Memory) (a : Nat) : ∀ c ∈ m.erase a, c.1 ≠ a := by
  intro c hc
  simpa using (List.mem_filter.mp hc).2

/-- A read after a write to the same address of the address space gives the byte written. -/
theorem Memory.read_write_same (m : Memory) {a : Nat} (b : Byte) (ha : a < Config.memSize) :
    (m.write f a b).read f a = b := by
  unfold Memory.write
  rw [if_pos ha]
  split
  · next h => rw [Memory.read_erase_same, h]
  · exact Memory.read_insert_same f _ _ _ (Memory.erase_absent m a)

/-- A write leaves every other address alone. -/
theorem Memory.read_write_other (m : Memory) {a x : Nat} (b : Byte) (hx : x ≠ a) :
    (m.write f a b).read f x = m.read f x := by
  unfold Memory.write
  split
  · split
    · exact Memory.read_erase_other f m hx
    · rw [Memory.read_insert_other f _ _ hx, Memory.read_erase_other f m hx]
  · rfl

theorem Memory.wf_nil : Memory.wf f [] := by simp [Memory.wf]

theorem Memory.mem_insert (m : Memory) (a : Nat) (b : Byte) (c : Host.Cell) :
    c ∈ m.insert a b → c = (a, b) ∨ c ∈ m := by
  induction m with
  | nil => simp [Memory.insert]
  | cons d rest ih =>
    obtain ⟨k, e⟩ := d
    by_cases h : a < k
    · simp [Memory.insert, h]
    · simp only [Memory.insert, h, if_false, List.mem_cons]
      rintro (rfl | hc)
      · exact .inr (.inl rfl)
      · exact (ih hc).imp_right .inr

theorem Memory.sorted_insert (m : Memory) (a : Nat) (b : Byte) (hm : m.Pairwise (fun c d => c.1 < d.1))
    (ha : ∀ c ∈ m, c.1 ≠ a) : (m.insert a b).Pairwise (fun c d => c.1 < d.1) := by
  induction m with
  | nil => simp [Memory.insert]
  | cons d rest ih =>
    obtain ⟨k, e⟩ := d
    rw [List.pairwise_cons] at hm
    have hk : k ≠ a := ha (k, e) (by simp)
    by_cases h : a < k
    · rw [Memory.insert, if_pos h, List.pairwise_cons]
      refine ⟨fun c hc => ?_, List.pairwise_cons.mpr hm⟩
      rcases List.mem_cons.mp hc with rfl | hc
      · exact h
      · exact h.trans (hm.1 c hc)
    · rw [Memory.insert, if_neg h, List.pairwise_cons]
      refine ⟨fun c hc => ?_, ih hm.2 fun c hc => ha c (by simp [hc])⟩
      rcases Memory.mem_insert rest a b c hc with rfl | hc
      · show k < a
        omega
      · exact hm.1 c hc

/-- A write keeps the canonical form. -/
theorem Memory.wf_write {m : Memory} (hm : m.wf f) (a : Nat) (b : Byte) : (m.write f a b).wf f := by
  have he : (m.erase a).wf f := ⟨hm.1.filter _, fun c hc => hm.2 c (List.mem_filter.mp hc).1⟩
  unfold Memory.write
  split
  · next ha =>
    split
    · exact he
    · next hb =>
      refine ⟨Memory.sorted_insert _ a b he.1 (Memory.erase_absent m a), fun c hc => ?_⟩
      rcases Memory.mem_insert _ a b c hc with rfl | hc
      · exact ⟨ha, hb⟩
      · exact he.2 c hc
  · exact hm

/-- A write of several bytes keeps the canonical form. -/
theorem Memory.wf_writeBytes {m : Memory} (hm : m.wf f) (a : Nat) (l : List Byte) : (m.writeBytes f a l).wf f := by
  induction l generalizing m a with
  | nil => exact hm
  | cons b rest ih => exact ih (Memory.wf_write f hm a b) (a + 1)

/-- What memory holds after a write of several bytes: the bytes from `a` up, and elsewhere what it held. -/
theorem Memory.read_writeBytes (m : Memory) (a : Nat) (l : List Byte) (h : a + l.length ≤ Config.memSize) (x : Nat) :
    (m.writeBytes f a l).read f x = if a ≤ x ∧ x < a + l.length then l.getD (x - a) 0 else m.read f x := by
  induction l generalizing m a with
  | nil =>
    have : ¬ (a ≤ x ∧ x < a + 0) := by omega
    simp only [Memory.writeBytes, List.length_nil, if_neg this]
  | cons b rest ih =>
    rw [List.length_cons] at h
    rw [Memory.writeBytes, ih (m.write f a b) (a + 1) (by omega), List.length_cons]
    by_cases hx : x = a
    · subst hx
      have h1 : ¬ (x + 1 ≤ x ∧ x < x + 1 + rest.length) := by omega
      have h2 : x ≤ x ∧ x < x + (rest.length + 1) := by omega
      rw [if_neg h1, if_pos h2, Memory.read_write_same f m b (by omega)]
      simp
    · by_cases hr : a + 1 ≤ x ∧ x < a + 1 + rest.length
      · have h2 : a ≤ x ∧ x < a + (rest.length + 1) := by omega
        obtain ⟨j, hj⟩ : ∃ j, x - a = j + 1 := ⟨x - a - 1, by omega⟩
        have hj' : x - (a + 1) = j := by omega
        rw [if_pos hr, if_pos h2, hj, hj', List.getD_cons_succ]
      · have h2 : ¬ (a ≤ x ∧ x < a + (rest.length + 1)) := by omega
        rw [if_neg hr, if_neg h2, Memory.read_write_other f m b hx]

@[simp] theorem Memory.length_readBytes (m : Memory) (a n : Nat) : (m.readBytes f a n).length = n := by
  induction n generalizing a with
  | zero => rfl
  | succ n ih => simp [Memory.readBytes, ih]

/-- Byte `r` of a read of `n` bytes is the byte at `a + r`. -/
theorem Memory.getD_readBytes (m : Memory) (a n r : Nat) (hr : r < n) (d : Byte) :
    (m.readBytes f a n).getD r d = m.read f (a + r) := by
  induction n generalizing a r with
  | zero => omega
  | succ n ih =>
    cases r with
    | zero => simp [Memory.readBytes]
    | succ r =>
      rw [Memory.readBytes, List.getD_cons_succ, ih (a + 1) r (by omega)]
      congr 1
      omega

/-- An address that is not listed reads as the reset contents. -/
theorem Memory.read_eq_reset_of_absent (m : Memory) (a : Nat) (h : ∀ c ∈ m, c.1 ≠ a) : m.read f a = resetByte f a := by
  induction m with
  | nil => rfl
  | cons c rest ih =>
    obtain ⟨k, b⟩ := c
    simp_all [Memory.read]

end Sys2Proof.Machine
end

