-- ==== Sys2Proof/Laws/State.lean ====
section
/-! SUPPORT. One lemma per field per named update of the state, so that no proof unfolds a record update. -/

namespace Sys2Proof.Machine

variable (s : State)

/-! ### `State.setReg` -/
@[simp] theorem State.setReg_v (x : Reg) (b : Byte) : (s.setReg x b).v = s.v.set x b := rfl
@[simp] theorem State.setReg_i (x : Reg) (b : Byte) : (s.setReg x b).i = s.i := rfl
@[simp] theorem State.setReg_pc (x : Reg) (b : Byte) : (s.setReg x b).pc = s.pc := rfl
@[simp] theorem State.setReg_sp (x : Reg) (b : Byte) : (s.setReg x b).sp = s.sp := rfl
@[simp] theorem State.setReg_stack (x : Reg) (b : Byte) : (s.setReg x b).stack = s.stack := rfl
@[simp] theorem State.setReg_dt (x : Reg) (b : Byte) : (s.setReg x b).dt = s.dt := rfl
@[simp] theorem State.setReg_st (x : Reg) (b : Byte) : (s.setReg x b).st = s.st := rfl
@[simp] theorem State.setReg_keys (x : Reg) (b : Byte) : (s.setReg x b).keys = s.keys := rfl
@[simp] theorem State.setReg_fb (x : Reg) (b : Byte) : (s.setReg x b).fb = s.fb := rfl
@[simp] theorem State.setReg_changed (x : Reg) (b : Byte) : (s.setReg x b).changed = s.changed := rfl
@[simp] theorem State.setReg_status (x : Reg) (b : Byte) : (s.setReg x b).status = s.status := rfl
@[simp] theorem State.setReg_cause (x : Reg) (b : Byte) : (s.setReg x b).cause = s.cause := rfl
@[simp] theorem State.setReg_mem (x : Reg) (b : Byte) : (s.setReg x b).mem = s.mem := rfl
@[simp] theorem State.setReg_font (x : Reg) (b : Byte) : (s.setReg x b).font = s.font := rfl
@[simp] theorem State.setReg_byte (x : Reg) (b : Byte) (a : Nat) : (s.setReg x b).byte a = s.byte a := rfl
@[simp] theorem State.setReg_draws (x : Reg) (b : Byte) : (s.setReg x b).draws = s.draws := rfl
@[simp] theorem State.setReg_schedule (x : Reg) (b : Byte) : (s.setReg x b).schedule = s.schedule := rfl

/-! ### `State.setRegs` -/
@[simp] theorem State.setRegs_v (w : Vector Byte 16) : (s.setRegs w).v = w := rfl
@[simp] theorem State.setRegs_i (w : Vector Byte 16) : (s.setRegs w).i = s.i := rfl
@[simp] theorem State.setRegs_pc (w : Vector Byte 16) : (s.setRegs w).pc = s.pc := rfl
@[simp] theorem State.setRegs_sp (w : Vector Byte 16) : (s.setRegs w).sp = s.sp := rfl
@[simp] theorem State.setRegs_stack (w : Vector Byte 16) : (s.setRegs w).stack = s.stack := rfl
@[simp] theorem State.setRegs_dt (w : Vector Byte 16) : (s.setRegs w).dt = s.dt := rfl
@[simp] theorem State.setRegs_st (w : Vector Byte 16) : (s.setRegs w).st = s.st := rfl
@[simp] theorem State.setRegs_keys (w : Vector Byte 16) : (s.setRegs w).keys = s.keys := rfl
@[simp] theorem State.setRegs_fb (w : Vector Byte 16) : (s.setRegs w).fb = s.fb := rfl
@[simp] theorem State.setRegs_changed (w : Vector Byte 16) : (s.setRegs w).changed = s.changed := rfl
@[simp] theorem State.setRegs_status (w : Vector Byte 16) : (s.setRegs w).status = s.status := rfl
@[simp] theorem State.setRegs_cause (w : Vector Byte 16) : (s.setRegs w).cause = s.cause := rfl
@[simp] theorem State.setRegs_mem (w : Vector Byte 16) : (s.setRegs w).mem = s.mem := rfl
@[simp] theorem State.setRegs_font (w : Vector Byte 16) : (s.setRegs w).font = s.font := rfl
@[simp] theorem State.setRegs_byte (w : Vector Byte 16) (a : Nat) : (s.setRegs w).byte a = s.byte a := rfl
@[simp] theorem State.setRegs_draws (w : Vector Byte 16) : (s.setRegs w).draws = s.draws := rfl
@[simp] theorem State.setRegs_schedule (w : Vector Byte 16) : (s.setRegs w).schedule = s.schedule := rfl

/-! ### `State.setI` -/
@[simp] theorem State.setI_v (w : Word) : (s.setI w).v = s.v := rfl
@[simp] theorem State.setI_i (w : Word) : (s.setI w).i = w := rfl
@[simp] theorem State.setI_pc (w : Word) : (s.setI w).pc = s.pc := rfl
@[simp] theorem State.setI_sp (w : Word) : (s.setI w).sp = s.sp := rfl
@[simp] theorem State.setI_stack (w : Word) : (s.setI w).stack = s.stack := rfl
@[simp] theorem State.setI_dt (w : Word) : (s.setI w).dt = s.dt := rfl
@[simp] theorem State.setI_st (w : Word) : (s.setI w).st = s.st := rfl
@[simp] theorem State.setI_keys (w : Word) : (s.setI w).keys = s.keys := rfl
@[simp] theorem State.setI_fb (w : Word) : (s.setI w).fb = s.fb := rfl
@[simp] theorem State.setI_changed (w : Word) : (s.setI w).changed = s.changed := rfl
@[simp] theorem State.setI_status (w : Word) : (s.setI w).status = s.status := rfl
@[simp] theorem State.setI_cause (w : Word) : (s.setI w).cause = s.cause := rfl
@[simp] theorem State.setI_mem (w : Word) : (s.setI w).mem = s.mem := rfl
@[simp] theorem State.setI_font (w : Word) : (s.setI w).font = s.font := rfl
@[simp] theorem State.setI_byte (w : Word) (a : Nat) : (s.setI w).byte a = s.byte a := rfl
@[simp] theorem State.setI_draws (w : Word) : (s.setI w).draws = s.draws := rfl
@[simp] theorem State.setI_schedule (w : Word) : (s.setI w).schedule = s.schedule := rfl

/-! ### `State.setPc` -/
@[simp] theorem State.setPc_v (w : Word) : (s.setPc w).v = s.v := rfl
@[simp] theorem State.setPc_i (w : Word) : (s.setPc w).i = s.i := rfl
@[simp] theorem State.setPc_pc (w : Word) : (s.setPc w).pc = w := rfl
@[simp] theorem State.setPc_sp (w : Word) : (s.setPc w).sp = s.sp := rfl
@[simp] theorem State.setPc_stack (w : Word) : (s.setPc w).stack = s.stack := rfl
@[simp] theorem State.setPc_dt (w : Word) : (s.setPc w).dt = s.dt := rfl
@[simp] theorem State.setPc_st (w : Word) : (s.setPc w).st = s.st := rfl
@[simp] theorem State.setPc_keys (w : Word) : (s.setPc w).keys = s.keys := rfl
@[simp] theorem State.setPc_fb (w : Word) : (s.setPc w).fb = s.fb := rfl
@[simp] theorem State.setPc_changed (w : Word) : (s.setPc w).changed = s.changed := rfl
@[simp] theorem State.setPc_status (w : Word) : (s.setPc w).status = s.status := rfl
@[simp] theorem State.setPc_cause (w : Word) : (s.setPc w).cause = s.cause := rfl
@[simp] theorem State.setPc_mem (w : Word) : (s.setPc w).mem = s.mem := rfl
@[simp] theorem State.setPc_font (w : Word) : (s.setPc w).font = s.font := rfl
@[simp] theorem State.setPc_byte (w : Word) (a : Nat) : (s.setPc w).byte a = s.byte a := rfl
@[simp] theorem State.setPc_draws (w : Word) : (s.setPc w).draws = s.draws := rfl
@[simp] theorem State.setPc_schedule (w : Word) : (s.setPc w).schedule = s.schedule := rfl

/-! ### `State.setDt` -/
@[simp] theorem State.setDt_v (b : Byte) : (s.setDt b).v = s.v := rfl
@[simp] theorem State.setDt_i (b : Byte) : (s.setDt b).i = s.i := rfl
@[simp] theorem State.setDt_pc (b : Byte) : (s.setDt b).pc = s.pc := rfl
@[simp] theorem State.setDt_sp (b : Byte) : (s.setDt b).sp = s.sp := rfl
@[simp] theorem State.setDt_stack (b : Byte) : (s.setDt b).stack = s.stack := rfl
@[simp] theorem State.setDt_dt (b : Byte) : (s.setDt b).dt = b := rfl
@[simp] theorem State.setDt_st (b : Byte) : (s.setDt b).st = s.st := rfl
@[simp] theorem State.setDt_keys (b : Byte) : (s.setDt b).keys = s.keys := rfl
@[simp] theorem State.setDt_fb (b : Byte) : (s.setDt b).fb = s.fb := rfl
@[simp] theorem State.setDt_changed (b : Byte) : (s.setDt b).changed = s.changed := rfl
@[simp] theorem State.setDt_status (b : Byte) : (s.setDt b).status = s.status := rfl
@[simp] theorem State.setDt_cause (b : Byte) : (s.setDt b).cause = s.cause := rfl
@[simp] theorem State.setDt_mem (b : Byte) : (s.setDt b).mem = s.mem := rfl
@[simp] theorem State.setDt_font (b : Byte) : (s.setDt b).font = s.font := rfl
@[simp] theorem State.setDt_byte (b : Byte) (a : Nat) : (s.setDt b).byte a = s.byte a := rfl
@[simp] theorem State.setDt_draws (b : Byte) : (s.setDt b).draws = s.draws := rfl
@[simp] theorem State.setDt_schedule (b : Byte) : (s.setDt b).schedule = s.schedule := rfl

/-! ### `State.setSt` -/
@[simp] theorem State.setSt_v (b : Byte) : (s.setSt b).v = s.v := rfl
@[simp] theorem State.setSt_i (b : Byte) : (s.setSt b).i = s.i := rfl
@[simp] theorem State.setSt_pc (b : Byte) : (s.setSt b).pc = s.pc := rfl
@[simp] theorem State.setSt_sp (b : Byte) : (s.setSt b).sp = s.sp := rfl
@[simp] theorem State.setSt_stack (b : Byte) : (s.setSt b).stack = s.stack := rfl
@[simp] theorem State.setSt_dt (b : Byte) : (s.setSt b).dt = s.dt := rfl
@[simp] theorem State.setSt_st (b : Byte) : (s.setSt b).st = b := rfl
@[simp] theorem State.setSt_keys (b : Byte) : (s.setSt b).keys = s.keys := rfl
@[simp] theorem State.setSt_fb (b : Byte) : (s.setSt b).fb = s.fb := rfl
@[simp] theorem State.setSt_changed (b : Byte) : (s.setSt b).changed = s.changed := rfl
@[simp] theorem State.setSt_status (b : Byte) : (s.setSt b).status = s.status := rfl
@[simp] theorem State.setSt_cause (b : Byte) : (s.setSt b).cause = s.cause := rfl
@[simp] theorem State.setSt_mem (b : Byte) : (s.setSt b).mem = s.mem := rfl
@[simp] theorem State.setSt_font (b : Byte) : (s.setSt b).font = s.font := rfl
@[simp] theorem State.setSt_byte (b : Byte) (a : Nat) : (s.setSt b).byte a = s.byte a := rfl
@[simp] theorem State.setSt_draws (b : Byte) : (s.setSt b).draws = s.draws := rfl
@[simp] theorem State.setSt_schedule (b : Byte) : (s.setSt b).schedule = s.schedule := rfl

/-! ### `State.setKeyBit` -/
@[simp] theorem State.setKeyBit_v (k : Key) (p : Bool) : (s.setKeyBit k p).v = s.v := rfl
@[simp] theorem State.setKeyBit_i (k : Key) (p : Bool) : (s.setKeyBit k p).i = s.i := rfl
@[simp] theorem State.setKeyBit_pc (k : Key) (p : Bool) : (s.setKeyBit k p).pc = s.pc := rfl
@[simp] theorem State.setKeyBit_sp (k : Key) (p : Bool) : (s.setKeyBit k p).sp = s.sp := rfl
@[simp] theorem State.setKeyBit_stack (k : Key) (p : Bool) : (s.setKeyBit k p).stack = s.stack := rfl
@[simp] theorem State.setKeyBit_dt (k : Key) (p : Bool) : (s.setKeyBit k p).dt = s.dt := rfl
@[simp] theorem State.setKeyBit_st (k : Key) (p : Bool) : (s.setKeyBit k p).st = s.st := rfl
@[simp] theorem State.setKeyBit_keys (k : Key) (p : Bool) : (s.setKeyBit k p).keys = s.keys.set k p := rfl
@[simp] theorem State.setKeyBit_fb (k : Key) (p : Bool) : (s.setKeyBit k p).fb = s.fb := rfl
@[simp] theorem State.setKeyBit_changed (k : Key) (p : Bool) : (s.setKeyBit k p).changed = s.changed := rfl
@[simp] theorem State.setKeyBit_status (k : Key) (p : Bool) : (s.setKeyBit k p).status = s.status := rfl
@[simp] theorem State.setKeyBit_cause (k : Key) (p : Bool) : (s.setKeyBit k p).cause = s.cause := rfl
@[simp] theorem State.setKeyBit_mem (k : Key) (p : Bool) : (s.setKeyBit k p).mem = s.mem := rfl
@[simp] theorem State.setKeyBit_font (k : Key) (p : Bool) : (s.setKeyBit k p).font = s.font := rfl
@[simp] theorem State.setKeyBit_byte (k : Key) (p : Bool) (a : Nat) : (s.setKeyBit k p).byte a = s.byte a := rfl
@[simp] theorem State.setKeyBit_draws (k : Key) (p : Bool) : (s.setKeyBit k p).draws = s.draws := rfl
@[simp] theorem State.setKeyBit_schedule (k : Key) (p : Bool) : (s.setKeyBit k p).schedule = s.schedule := rfl

/-! ### `State.setChanged` -/
@[simp] theorem State.setChanged_v (b : Bool) : (s.setChanged b).v = s.v := rfl
@[simp] theorem State.setChanged_i (b : Bool) : (s.setChanged b).i = s.i := rfl
@[simp] theorem State.setChanged_pc (b : Bool) : (s.setChanged b).pc = s.pc := rfl
@[simp] theorem State.setChanged_sp (b : Bool) : (s.setChanged b).sp = s.sp := rfl
@[simp] theorem State.setChanged_stack (b : Bool) : (s.setChanged b).stack = s.stack := rfl
@[simp] theorem State.setChanged_dt (b : Bool) : (s.setChanged b).dt = s.dt := rfl
@[simp] theorem State.setChanged_st (b : Bool) : (s.setChanged b).st = s.st := rfl
@[simp] theorem State.setChanged_keys (b : Bool) : (s.setChanged b).keys = s.keys := rfl
@[simp] theorem State.setChanged_fb (b : Bool) : (s.setChanged b).fb = s.fb := rfl
@[simp] theorem State.setChanged_changed (b : Bool) : (s.setChanged b).changed = b := rfl
@[simp] theorem State.setChanged_status (b : Bool) : (s.setChanged b).status = s.status := rfl
@[simp] theorem State.setChanged_cause (b : Bool) : (s.setChanged b).cause = s.cause := rfl
@[simp] theorem State.setChanged_mem (b : Bool) : (s.setChanged b).mem = s.mem := rfl
@[simp] theorem State.setChanged_font (b : Bool) : (s.setChanged b).font = s.font := rfl
@[simp] theorem State.setChanged_byte (b : Bool) (a : Nat) : (s.setChanged b).byte a = s.byte a := rfl
@[simp] theorem State.setChanged_draws (b : Bool) : (s.setChanged b).draws = s.draws := rfl
@[simp] theorem State.setChanged_schedule (b : Bool) : (s.setChanged b).schedule = s.schedule := rfl

/-! ### `State.setStatus` -/
@[simp] theorem State.setStatus_v (c : Status) : (s.setStatus c).v = s.v := rfl
@[simp] theorem State.setStatus_i (c : Status) : (s.setStatus c).i = s.i := rfl
@[simp] theorem State.setStatus_pc (c : Status) : (s.setStatus c).pc = s.pc := rfl
@[simp] theorem State.setStatus_sp (c : Status) : (s.setStatus c).sp = s.sp := rfl
@[simp] theorem State.setStatus_stack (c : Status) : (s.setStatus c).stack = s.stack := rfl
@[simp] theorem State.setStatus_dt (c : Status) : (s.setStatus c).dt = s.dt := rfl
@[simp] theorem State.setStatus_st (c : Status) : (s.setStatus c).st = s.st := rfl
@[simp] theorem State.setStatus_keys (c : Status) : (s.setStatus c).keys = s.keys := rfl
@[simp] theorem State.setStatus_fb (c : Status) : (s.setStatus c).fb = s.fb := rfl
@[simp] theorem State.setStatus_changed (c : Status) : (s.setStatus c).changed = s.changed := rfl
@[simp] theorem State.setStatus_status (c : Status) : (s.setStatus c).status = c := rfl
@[simp] theorem State.setStatus_cause (c : Status) : (s.setStatus c).cause = s.cause := rfl
@[simp] theorem State.setStatus_mem (c : Status) : (s.setStatus c).mem = s.mem := rfl
@[simp] theorem State.setStatus_font (c : Status) : (s.setStatus c).font = s.font := rfl
@[simp] theorem State.setStatus_byte (c : Status) (a : Nat) : (s.setStatus c).byte a = s.byte a := rfl
@[simp] theorem State.setStatus_draws (c : Status) : (s.setStatus c).draws = s.draws := rfl
@[simp] theorem State.setStatus_schedule (c : Status) : (s.setStatus c).schedule = s.schedule := rfl

/-! ### `State.setFb` -/
@[simp] theorem State.setFb_v (f : Framebuffer) : (s.setFb f).v = s.v := rfl
@[simp] theorem State.setFb_i (f : Framebuffer) : (s.setFb f).i = s.i := rfl
@[simp] theorem State.setFb_pc (f : Framebuffer) : (s.setFb f).pc = s.pc := rfl
@[simp] theorem State.setFb_sp (f : Framebuffer) : (s.setFb f).sp = s.sp := rfl
@[simp] theorem State.setFb_stack (f : Framebuffer) : (s.setFb f).stack = s.stack := rfl
@[simp] theorem State.setFb_dt (f : Framebuffer) : (s.setFb f).dt = s.dt := rfl
@[simp] theorem State.setFb_st (f : Framebuffer) : (s.setFb f).st = s.st := rfl
@[simp] theorem State.setFb_keys (f : Framebuffer) : (s.setFb f).keys = s.keys := rfl
@[simp] theorem State.setFb_fb (f : Framebuffer) : (s.setFb f).fb = f := rfl
@[simp] theorem State.setFb_changed (f : Framebuffer) : (s.setFb f).changed = s.changed := rfl
@[simp] theorem State.setFb_status (f : Framebuffer) : (s.setFb f).status = s.status := rfl
@[simp] theorem State.setFb_cause (f : Framebuffer) : (s.setFb f).cause = s.cause := rfl
@[simp] theorem State.setFb_mem (f : Framebuffer) : (s.setFb f).mem = s.mem := rfl
@[simp] theorem State.setFb_font (f : Framebuffer) : (s.setFb f).font = s.font := rfl
@[simp] theorem State.setFb_byte (f : Framebuffer) (a : Nat) : (s.setFb f).byte a = s.byte a := rfl
@[simp] theorem State.setFb_draws (f : Framebuffer) : (s.setFb f).draws = s.draws := rfl
@[simp] theorem State.setFb_schedule (f : Framebuffer) : (s.setFb f).schedule = s.schedule := rfl

/-! ### `State.setMem` -/
@[simp] theorem State.setMem_v (m : Memory) : (s.setMem m).v = s.v := rfl
@[simp] theorem State.setMem_i (m : Memory) : (s.setMem m).i = s.i := rfl
@[simp] theorem State.setMem_pc (m : Memory) : (s.setMem m).pc = s.pc := rfl
@[simp] theorem State.setMem_sp (m : Memory) : (s.setMem m).sp = s.sp := rfl
@[simp] theorem State.setMem_stack (m : Memory) : (s.setMem m).stack = s.stack := rfl
@[simp] theorem State.setMem_dt (m : Memory) : (s.setMem m).dt = s.dt := rfl
@[simp] theorem State.setMem_st (m : Memory) : (s.setMem m).st = s.st := rfl
@[simp] theorem State.setMem_keys (m : Memory) : (s.setMem m).keys = s.keys := rfl
@[simp] theorem State.setMem_fb (m : Memory) : (s.setMem m).fb = s.fb := rfl
@[simp] theorem State.setMem_changed (m : Memory) : (s.setMem m).changed = s.changed := rfl
@[simp] theorem State.setMem_status (m : Memory) : (s.setMem m).status = s.status := rfl
@[simp] theorem State.setMem_cause (m : Memory) : (s.setMem m).cause = s.cause := rfl
@[simp] theorem State.setMem_mem (m : Memory) : (s.setMem m).mem = m := rfl
@[simp] theorem State.setMem_font (m : Memory) : (s.setMem m).font = s.font := rfl
@[simp] theorem State.setMem_draws (m : Memory) : (s.setMem m).draws = s.draws := rfl
@[simp] theorem State.setMem_schedule (m : Memory) : (s.setMem m).schedule = s.schedule := rfl

/-! ### `State.setSchedule` -/
@[simp] theorem State.setSchedule_v (l : List Event) : (s.setSchedule l).v = s.v := rfl
@[simp] theorem State.setSchedule_i (l : List Event) : (s.setSchedule l).i = s.i := rfl
@[simp] theorem State.setSchedule_pc (l : List Event) : (s.setSchedule l).pc = s.pc := rfl
@[simp] theorem State.setSchedule_sp (l : List Event) : (s.setSchedule l).sp = s.sp := rfl
@[simp] theorem State.setSchedule_stack (l : List Event) : (s.setSchedule l).stack = s.stack := rfl
@[simp] theorem State.setSchedule_dt (l : List Event) : (s.setSchedule l).dt = s.dt := rfl
@[simp] theorem State.setSchedule_st (l : List Event) : (s.setSchedule l).st = s.st := rfl
@[simp] theorem State.setSchedule_keys (l : List Event) : (s.setSchedule l).keys = s.keys := rfl
@[simp] theorem State.setSchedule_fb (l : List Event) : (s.setSchedule l).fb = s.fb := rfl
@[simp] theorem State.setSchedule_changed (l : List Event) : (s.setSchedule l).changed = s.changed := rfl
@[simp] theorem State.setSchedule_status (l : List Event) : (s.setSchedule l).status = s.status := rfl
@[simp] theorem State.setSchedule_cause (l : List Event) : (s.setSchedule l).cause = s.cause := rfl
@[simp] theorem State.setSchedule_mem (l : List Event) : (s.setSchedule l).mem = s.mem := rfl
@[simp] theorem State.setSchedule_font (l : List Event) : (s.setSchedule l).font = s.font := rfl
@[simp] theorem State.setSchedule_byte (l : List Event) (a : Nat) : (s.setSchedule l).byte a = s.byte a := rfl
@[simp] theorem State.setSchedule_draws (l : List Event) : (s.setSchedule l).draws = s.draws := rfl
@[simp] theorem State.setSchedule_schedule (l : List Event) : (s.setSchedule l).schedule = l := rfl

/-! ### `State.advance` -/
@[simp] theorem State.advance_v : (s.advance).v = s.v := rfl
@[simp] theorem State.advance_i : (s.advance).i = s.i := rfl
@[simp] theorem State.advance_pc : (s.advance).pc = s.pc + 2 := rfl
@[simp] theorem State.advance_sp : (s.advance).sp = s.sp := rfl
@[simp] theorem State.advance_stack : (s.advance).stack = s.stack := rfl
@[simp] theorem State.advance_dt : (s.advance).dt = s.dt := rfl
@[simp] theorem State.advance_st : (s.advance).st = s.st := rfl
@[simp] theorem State.advance_keys : (s.advance).keys = s.keys := rfl
@[simp] theorem State.advance_fb : (s.advance).fb = s.fb := rfl
@[simp] theorem State.advance_changed : (s.advance).changed = s.changed := rfl
@[simp] theorem State.advance_status : (s.advance).status = s.status := rfl
@[simp] theorem State.advance_cause : (s.advance).cause = s.cause := rfl
@[simp] theorem State.advance_mem : (s.advance).mem = s.mem := rfl
@[simp] theorem State.advance_font : (s.advance).font = s.font := rfl
@[simp] theorem State.advance_byte (a : Nat) : (s.advance).byte a = s.byte a := rfl
@[simp] theorem State.advance_draws : (s.advance).draws = s.draws := rfl
@[simp] theorem State.advance_schedule : (s.advance).schedule = s.schedule := rfl

/-! ### `State.drawn` -/
@[simp] theorem State.drawn_v : (s.drawn).v = s.v := rfl
@[simp] theorem State.drawn_i : (s.drawn).i = s.i := rfl
@[simp] theorem State.drawn_pc : (s.drawn).pc = s.pc := rfl
@[simp] theorem State.drawn_sp : (s.drawn).sp = s.sp := rfl
@[simp] theorem State.drawn_stack : (s.drawn).stack = s.stack := rfl
@[simp] theorem State.drawn_dt : (s.drawn).dt = s.dt := rfl
@[simp] theorem State.drawn_st : (s.drawn).st = s.st := rfl
@[simp] theorem State.drawn_keys : (s.drawn).keys = s.keys := rfl
@[simp] theorem State.drawn_fb : (s.drawn).fb = s.fb := rfl
@[simp] theorem State.drawn_changed : (s.drawn).changed = s.changed := rfl
@[simp] theorem State.drawn_status : (s.drawn).status = s.status := rfl
@[simp] theorem State.drawn_cause : (s.drawn).cause = s.cause := rfl
@[simp] theorem State.drawn_mem : (s.drawn).mem = s.mem := rfl
@[simp] theorem State.drawn_font : (s.drawn).font = s.font := rfl
@[simp] theorem State.drawn_byte (a : Nat) : (s.drawn).byte a = s.byte a := rfl
@[simp] theorem State.drawn_draws : (s.drawn).draws = s.draws + 1 := rfl
@[simp] theorem State.drawn_schedule : (s.drawn).schedule = s.schedule := rfl

/-! ### `State.push` -/
@[simp] theorem State.push_v (k : Fin 16) (w : Word) : (s.push k w).v = s.v := rfl
@[simp] theorem State.push_i (k : Fin 16) (w : Word) : (s.push k w).i = s.i := rfl
@[simp] theorem State.push_pc (k : Fin 16) (w : Word) : (s.push k w).pc = s.pc := rfl
@[simp] theorem State.push_sp (k : Fin 16) (w : Word) : (s.push k w).sp = s.sp + 1 := rfl
@[simp] theorem State.push_stack (k : Fin 16) (w : Word) : (s.push k w).stack = s.stack.set k w := rfl
@[simp] theorem State.push_dt (k : Fin 16) (w : Word) : (s.push k w).dt = s.dt := rfl
@[simp] theorem State.push_st (k : Fin 16) (w : Word) : (s.push k w).st = s.st := rfl
@[simp] theorem State.push_keys (k : Fin 16) (w : Word) : (s.push k w).keys = s.keys := rfl
@[simp] theorem State.push_fb (k : Fin 16) (w : Word) : (s.push k w).fb = s.fb := rfl
@[simp] theorem State.push_changed (k : Fin 16) (w : Word) : (s.push k w).changed = s.changed := rfl
@[simp] theorem State.push_status (k : Fin 16) (w : Word) : (s.push k w).status = s.status := rfl
@[simp] theorem State.push_cause (k : Fin 16) (w : Word) : (s.push k w).cause = s.cause := rfl
@[simp] theorem State.push_mem (k : Fin 16) (w : Word) : (s.push k w).mem = s.mem := rfl
@[simp] theorem State.push_font (k : Fin 16) (w : Word) : (s.push k w).font = s.font := rfl
@[simp] theorem State.push_byte (k : Fin 16) (w : Word) (a : Nat) : (s.push k w).byte a = s.byte a := rfl
@[simp] theorem State.push_draws (k : Fin 16) (w : Word) : (s.push k w).draws = s.draws := rfl
@[simp] theorem State.push_schedule (k : Fin 16) (w : Word) : (s.push k w).schedule = s.schedule := rfl

/-! ### `State.popToPc` -/
@[simp] theorem State.popToPc_v (k : Fin 16) : (s.popToPc k).v = s.v := rfl
@[simp] theorem State.popToPc_i (k : Fin 16) : (s.popToPc k).i = s.i := rfl
@[simp] theorem State.popToPc_pc (k : Fin 16) : (s.popToPc k).pc = s.stack[k] := rfl
@[simp] theorem State.popToPc_sp (k : Fin 16) : (s.popToPc k).sp = s.sp - 1 := rfl
@[simp] theorem State.popToPc_stack (k : Fin 16) : (s.popToPc k).stack = s.stack := rfl
@[simp] theorem State.popToPc_dt (k : Fin 16) : (s.popToPc k).dt = s.dt := rfl
@[simp] theorem State.popToPc_st (k : Fin 16) : (s.popToPc k).st = s.st := rfl
@[simp] theorem State.popToPc_keys (k : Fin 16) : (s.popToPc k).keys = s.keys := rfl
@[simp] theorem State.popToPc_fb (k : Fin 16) : (s.popToPc k).fb = s.fb := rfl
@[simp] theorem State.popToPc_changed (k : Fin 16) : (s.popToPc k).changed = s.changed := rfl
@[simp] theorem State.popToPc_status (k : Fin 16) : (s.popToPc k).status = s.status := rfl
@[simp] theorem State.popToPc_cause (k : Fin 16) : (s.popToPc k).cause = s.cause := rfl
@[simp] theorem State.popToPc_mem (k : Fin 16) : (s.popToPc k).mem = s.mem := rfl
@[simp] theorem State.popToPc_font (k : Fin 16) : (s.popToPc k).font = s.font := rfl
@[simp] theorem State.popToPc_byte (k : Fin 16) (a : Nat) : (s.popToPc k).byte a = s.byte a := rfl
@[simp] theorem State.popToPc_draws (k : Fin 16) : (s.popToPc k).draws = s.draws := rfl
@[simp] theorem State.popToPc_schedule (k : Fin 16) : (s.popToPc k).schedule = s.schedule := rfl

/-! ### `State.raise` -/
@[simp] theorem State.raise_v (c : FaultCause) : (s.raise c).v = s.v := rfl
@[simp] theorem State.raise_i (c : FaultCause) : (s.raise c).i = s.i := rfl
@[simp] theorem State.raise_pc (c : FaultCause) : (s.raise c).pc = s.pc := rfl
@[simp] theorem State.raise_sp (c : FaultCause) : (s.raise c).sp = s.sp := rfl
@[simp] theorem State.raise_stack (c : FaultCause) : (s.raise c).stack = s.stack := rfl
@[simp] theorem State.raise_dt (c : FaultCause) : (s.raise c).dt = s.dt := rfl
@[simp] theorem State.raise_st (c : FaultCause) : (s.raise c).st = s.st := rfl
@[simp] theorem State.raise_keys (c : FaultCause) : (s.raise c).keys = s.keys := rfl
@[simp] theorem State.raise_fb (c : FaultCause) : (s.raise c).fb = s.fb := rfl
@[simp] theorem State.raise_changed (c : FaultCause) : (s.raise c).changed = s.changed := rfl
@[simp] theorem State.raise_status (c : FaultCause) : (s.raise c).status = .crashed := rfl
@[simp] theorem State.raise_cause (c : FaultCause) : (s.raise c).cause = some c := rfl
@[simp] theorem State.raise_mem (c : FaultCause) : (s.raise c).mem = s.mem := rfl
@[simp] theorem State.raise_font (c : FaultCause) : (s.raise c).font = s.font := rfl
@[simp] theorem State.raise_byte (c : FaultCause) (a : Nat) : (s.raise c).byte a = s.byte a := rfl
@[simp] theorem State.raise_draws (c : FaultCause) : (s.raise c).draws = s.draws := rfl
@[simp] theorem State.raise_schedule (c : FaultCause) : (s.raise c).schedule = s.schedule := rfl

/-! ### `State.store`: what it does to `byte` stands in `State.byte_store` -/
@[simp] theorem State.store_v (a : Nat) (l : List Byte) : (s.store a l).v = s.v := rfl
@[simp] theorem State.store_i (a : Nat) (l : List Byte) : (s.store a l).i = s.i := rfl
@[simp] theorem State.store_pc (a : Nat) (l : List Byte) : (s.store a l).pc = s.pc := rfl
@[simp] theorem State.store_sp (a : Nat) (l : List Byte) : (s.store a l).sp = s.sp := rfl
@[simp] theorem State.store_stack (a : Nat) (l : List Byte) : (s.store a l).stack = s.stack := rfl
@[simp] theorem State.store_dt (a : Nat) (l : List Byte) : (s.store a l).dt = s.dt := rfl
@[simp] theorem State.store_st (a : Nat) (l : List Byte) : (s.store a l).st = s.st := rfl
@[simp] theorem State.store_keys (a : Nat) (l : List Byte) : (s.store a l).keys = s.keys := rfl
@[simp] theorem State.store_fb (a : Nat) (l : List Byte) : (s.store a l).fb = s.fb := rfl
@[simp] theorem State.store_changed (a : Nat) (l : List Byte) : (s.store a l).changed = s.changed := rfl
@[simp] theorem State.store_status (a : Nat) (l : List Byte) : (s.store a l).status = s.status := rfl
@[simp] theorem State.store_cause (a : Nat) (l : List Byte) : (s.store a l).cause = s.cause := rfl
@[simp] theorem State.store_font (a : Nat) (l : List Byte) : (s.store a l).font = s.font := rfl
@[simp] theorem State.store_draws (a : Nat) (l : List Byte) : (s.store a l).draws = s.draws := rfl
@[simp] theorem State.store_schedule (a : Nat) (l : List Byte) : (s.store a l).schedule = s.schedule := rfl

/-! ### The state after reset, for any font (R38, R200) -/
@[simp] theorem State.resetWith_v (f : Font) : (State.resetWith f).v = Vector.replicate 16 0 := rfl
@[simp] theorem State.resetWith_i (f : Font) : (State.resetWith f).i = 0 := rfl
@[simp] theorem State.resetWith_pc (f : Font) : (State.resetWith f).pc = 0x200 := rfl
@[simp] theorem State.resetWith_sp (f : Font) : (State.resetWith f).sp = 0 := rfl
@[simp] theorem State.resetWith_stack (f : Font) : (State.resetWith f).stack = Vector.replicate Config.stackDepth 0 := rfl
@[simp] theorem State.resetWith_dt (f : Font) : (State.resetWith f).dt = 0 := rfl
@[simp] theorem State.resetWith_st (f : Font) : (State.resetWith f).st = 0 := rfl
@[simp] theorem State.resetWith_keys (f : Font) : (State.resetWith f).keys = Vector.replicate 16 false := rfl
@[simp] theorem State.resetWith_fb (f : Font) : (State.resetWith f).fb = Framebuffer.blank := rfl
@[simp] theorem State.resetWith_changed (f : Font) : (State.resetWith f).changed = false := rfl
@[simp] theorem State.resetWith_status (f : Font) : (State.resetWith f).status = .uninitialized := rfl
@[simp] theorem State.resetWith_cause (f : Font) : (State.resetWith f).cause = none := rfl
@[simp] theorem State.resetWith_mem (f : Font) : (State.resetWith f).mem = [] := rfl
@[simp] theorem State.resetWith_font (f : Font) : (State.resetWith f).font = f := rfl
@[simp] theorem State.resetWith_draws (f : Font) : (State.resetWith f).draws = 0 := rfl
@[simp] theorem State.resetWith_schedule (f : Font) : (State.resetWith f).schedule = [] := rfl
@[simp] theorem State.resetWith_byte (f : Font) (a : Nat) : (State.resetWith f).byte a = resetByte f a := rfl

/-! ### The `reset` event (R200) -/
@[simp] theorem resetEvent_v : (resetEvent s).v = Vector.replicate 16 0 := rfl
@[simp] theorem resetEvent_i : (resetEvent s).i = 0 := rfl
@[simp] theorem resetEvent_pc : (resetEvent s).pc = 0x200 := rfl
@[simp] theorem resetEvent_sp : (resetEvent s).sp = 0 := rfl
@[simp] theorem resetEvent_stack : (resetEvent s).stack = Vector.replicate Config.stackDepth 0 := rfl
@[simp] theorem resetEvent_dt : (resetEvent s).dt = 0 := rfl
@[simp] theorem resetEvent_st : (resetEvent s).st = 0 := rfl
@[simp] theorem resetEvent_keys : (resetEvent s).keys = Vector.replicate 16 false := rfl
@[simp] theorem resetEvent_fb : (resetEvent s).fb = Framebuffer.blank := rfl
@[simp] theorem resetEvent_changed : (resetEvent s).changed = false := rfl
@[simp] theorem resetEvent_status : (resetEvent s).status = .uninitialized := rfl
@[simp] theorem resetEvent_cause : (resetEvent s).cause = none := rfl
@[simp] theorem resetEvent_mem : (resetEvent s).mem = [] := rfl
@[simp] theorem resetEvent_font : (resetEvent s).font = s.font := rfl
@[simp] theorem resetEvent_draws : (resetEvent s).draws = s.draws := rfl
@[simp] theorem resetEvent_schedule : (resetEvent s).schedule = s.schedule := rfl
@[simp] theorem resetEvent_byte (a : Nat) : (resetEvent s).byte a = resetByte s.font a := rfl

end Sys2Proof.Machine
end

