-- ==== Sys2Proof/Laws/Cells.lean ====
section
/-! SUPPORT. What each operation on registers, keys, stack, screen and flags does, cell by cell. -/

namespace Sys2Proof.Machine

/-! ### Memory (R8) -/

/-- What the machine's memory holds after a store within memory: the bytes from `a` up, and elsewhere what it held. -/
theorem State.byte_store (s : State) (a : Nat) (l : List Byte) (h : a + l.length ≤ Config.memSize) (x : Nat) :
    (s.store a l).byte x = if a ≤ x ∧ x < a + l.length then l.getD (x - a) 0 else s.byte x :=
  Memory.read_writeBytes s.font s.mem a l h x

/-- A store keeps the canonical form of memory. -/
theorem State.wf_store {s : State} (h : s.mem.wf s.font) (a : Nat) (l : List Byte) :
    (s.store a l).mem.wf (s.store a l).font := Memory.wf_writeBytes s.font h a l

@[simp] theorem State.length_bytes (s : State) (a n : Nat) : (s.bytes a n).length = n :=
  Memory.length_readBytes s.font s.mem a n

/-- Byte `r` of a read of `n` bytes is the byte at `a + r`. -/
theorem State.getD_bytes (s : State) (a n r : Nat) (hr : r < n) (d : Byte) : (s.bytes a n).getD r d = s.byte (a + r) :=
  Memory.getD_readBytes s.font s.mem a n r hr d

/-- The reset contents of memory: the font at 0 to 79 (R38). -/
theorem resetByte_font (f : Font) {a : Nat} (h : a < Config.fontSize) : resetByte f a = f[a] := dif_pos h

/-- The reset contents of memory: zero above the font (R38). -/
theorem resetByte_zero (f : Font) {a : Nat} (h : Config.fontSize ≤ a) : resetByte f a = 0 :=
  dif_neg (Nat.not_lt.mpr h)

/-- The word the next fetch reads, as a number: the byte at `pc` is the high one (R58, R91). -/
theorem State.toNat_fetchedWord (s : State) :
    s.fetchedWord.toNat = (s.byte s.pc.toNat).toNat * 256 + (s.byte (s.pc.toNat + 1)).toNat := by
  have h1 := (s.byte s.pc.toNat).isLt
  have h2 := (s.byte (s.pc.toNat + 1)).isLt
  simp only [State.fetchedWord, wordOfBytes, BitVec.toNat_ofNat]
  omega

/-! ### Registers and keys -/

/-- A register write: that register holds the byte, every other one is unchanged. -/
theorem State.reg_setReg (s : State) (x y : Reg) (b : Byte) :
    (s.setReg x b).reg y = if y = x then b else s.reg y := by
  simp only [State.reg, State.setReg_v, Fin.getElem_fin]
  by_cases h : y = x
  · simp [h]
  · have : ¬ (x.val = y.val) := fun e => h (Fin.ext e.symm)
    rw [Vector.getElem_set]
    simp [h, this]

@[simp] theorem State.reg_setReg_same (s : State) (x : Reg) (b : Byte) : (s.setReg x b).reg x = b := by
  simp [State.reg_setReg]

theorem State.reg_setReg_other (s : State) {x y : Reg} (b : Byte) (h : y ≠ x) :
    (s.setReg x b).reg y = s.reg y := by
  simp [State.reg_setReg, h]

/-- A result written with its flag: VF holds the flag, `x` the result unless it is VF itself (R119). -/
theorem State.reg_setWithFlag (s : State) (x y : Reg) (b : Byte) (f : Bool) :
    (s.setWithFlag x b f).reg y = if y = vf then flagByte f else if y = x then b else s.reg y := by
  simp [State.setWithFlag, State.reg_setReg]

/-- A write of the key latch: that key, and no other (R30). -/
theorem State.key_setKeyBit (s : State) (k j : Key) (p : Bool) :
    (s.setKeyBit k p).key j = if j = k then p else s.key j := by
  simp only [State.key, State.setKeyBit_keys, Fin.getElem_fin]
  by_cases h : j = k
  · simp [h]
  · have : ¬ (k.val = j.val) := fun e => h (Fin.ext e.symm)
    rw [Vector.getElem_set]
    simp [h, this]

/-- A push writes the one stack entry it names. -/
theorem State.stack_push (s : State) (k j : Fin 16) (w : Word) :
    (s.push k w).stack[j] = if j = k then w else s.stack[j] := by
  simp only [State.push_stack, Fin.getElem_fin]
  by_cases h : j = k
  · simp [h]
  · have : ¬ (k.val = j.val) := fun e => h (Fin.ext e.symm)
    rw [Vector.getElem_set]
    simp [h, this]

/-- `Fx65`'s registers: `V[k]` from `I + k` up to `x`, the others unchanged (R145). -/
theorem State.reg_setRegs_loadedRegs (s : State) (x k : Reg) :
    (s.setRegs (s.loadedRegs x)).reg k = if k ≤ x then s.byte (s.base + k.val) else s.reg k := by
  simp [State.reg, State.loadedRegs]

/-- `Fx55`'s bytes: there are `x + 1`, and byte `k` is `V[k]` (R144). -/
theorem State.length_regsUpTo (s : State) (x : Reg) : (s.regsUpTo x).length = x.val + 1 := by
  simp [State.regsUpTo]

theorem State.getD_regsUpTo (s : State) (x k : Reg) (hk : k ≤ x) (d : Byte) :
    (s.regsUpTo x).getD k.val d = s.reg k := by
  have h1 : k.val < x.val + 1 := by have := Fin.le_def.mp hk; omega
  rw [List.getD_eq_getElem _ _ (by rw [State.length_regsUpTo]; exact h1)]
  simp [State.regsUpTo, State.reg]

/-! ### The pressed keys (R162) -/

/-- A scan of `n` keys from `k` finds nothing exactly when none of them is pressed. -/
theorem State.pressedFrom_none (s : State) (k n : Nat) :
    s.pressedFrom k n = none ↔ ∀ j, k ≤ j → j < k + n → s.key (Fin.ofNat 16 j) = false := by
  induction n generalizing k with
  | zero =>
    simp only [State.pressedFrom, true_iff]
    intro j h1 h2
    omega
  | succ n ih =>
    by_cases h : s.key (Fin.ofNat 16 k) = true
    · simp only [State.pressedFrom, h, if_true, reduceCtorEq, false_iff, not_forall]
      exact ⟨k, le_refl k, by omega, by rw [h]; decide⟩
    · simp only [State.pressedFrom, h, Bool.false_eq_true, if_false]
      rw [ih]
      constructor
      · intro H j h1 h2
        by_cases hj : j = k
        · simpa [hj] using h
        · exact H j (by omega) (by omega)
      · intro H j h1 h2
        exact H j (by omega) (by omega)

/-- A scan of `n` keys from `k` finds the least pressed one. -/
theorem State.pressedFrom_some (s : State) (k n j : Nat) :
    s.pressedFrom k n = some j → k ≤ j ∧ j < k + n ∧ s.key (Fin.ofNat 16 j) = true ∧
      ∀ i, k ≤ i → i < j → s.key (Fin.ofNat 16 i) = false := by
  induction n generalizing k with
  | zero => simp [State.pressedFrom]
  | succ n ih =>
    by_cases h : s.key (Fin.ofNat 16 k) = true
    · simp only [State.pressedFrom, h, if_true, Option.some.injEq]
      rintro rfl
      exact ⟨le_refl k, by omega, h, fun i h1 h2 => by omega⟩
    · simp only [State.pressedFrom, h, Bool.false_eq_true, if_false]
      intro hj
      obtain ⟨h1, h2, h3, h4⟩ := ih (k + 1) hj
      refine ⟨by omega, by omega, h3, fun i hi1 hi2 => ?_⟩
      by_cases hi : i = k
      · simpa [hi] using h
      · exact h4 i (by omega) hi2

/-! ### Arithmetic (R118) -/

theorem toNat_flagByte (b : Bool) : (flagByte b).toNat = if b then 1 else 0 := by cases b <;> rfl

theorem toNat_sum8 (a b : Byte) : (sum8 a b).toNat = (a.toNat + b.toNat) % 256 := by simp [sum8]

theorem toNat_diff8 (a b : Byte) : (diff8 a b).toNat = (256 + a.toNat - b.toNat) % 256 := by simp [diff8]

theorem toNat_half8 (a : Byte) : (half8 a).toNat = a.toNat / 2 := by
  have := a.isLt
  simp only [half8, BitVec.toNat_ofNat]
  omega

theorem toNat_double8 (a : Byte) : (double8 a).toNat = a.toNat * 2 % 256 := by simp [double8]

/-! ### The framebuffer (R31, R151) -/

/-- A toggle inverts its pixel, if it is on the screen, and no other. -/
theorem Framebuffer.pixel_toggle (f : Framebuffer) (px py x y : Nat) :
    (f.toggle px py).pixel x y =
      if px < 64 ∧ py < 32 ∧ x = px ∧ y = py then !f.pixel x y else f.pixel x y := by
  by_cases hp : px < 64 ∧ py < 32
  · by_cases hx : x < 64 ∧ y < 32
    · by_cases hy : y = py
      · subst hy
        by_cases hxx : x = px
        · subst hxx
          simp [Framebuffer.toggle, Framebuffer.pixel, hp]
        · have : ¬ px = x := fun e => hxx e.symm
          simp [Framebuffer.toggle, Framebuffer.pixel, hp, hx, hxx, this]
      · have : ¬ py = y := fun e => hy e.symm
        simp [Framebuffer.toggle, Framebuffer.pixel, hp, hx, hy, this]
    · have h2 : ¬ (px < 64 ∧ py < 32 ∧ x = px ∧ y = py) := by
        rintro ⟨h1, h2, rfl, rfl⟩
        exact hx ⟨h1, h2⟩
      rw [if_neg h2]
      simp [Framebuffer.pixel, hx]
  · have h2 : ¬ (px < 64 ∧ py < 32 ∧ x = px ∧ y = py) := fun h => hp ⟨h.1, h.2.1⟩
    rw [if_neg h2]
    simp [Framebuffer.toggle, hp]

theorem Framebuffer.pixel_blank (x y : Nat) : Framebuffer.blank.pixel x y = false := by
  unfold Framebuffer.pixel Framebuffer.blank
  split <;> simp

end Sys2Proof.Machine
end

