-- ==== Sys2Proof/Laws/Decode.lean ====
section
/-! SUPPORT. The fields of a word as numbers, and the fields of each encoding format (R71, R72). -/

namespace Sys2Proof

theorem fieldF_eq (w : Word) : fieldF w = w.toNat / 4096 := by
  have := w.isLt
  simp only [fieldF, bits]
  omega

theorem fieldX_val (w : Word) : (fieldX w).val = w.toNat / 256 % 16 := by simp [fieldX, bits]

theorem fieldY_val (w : Word) : (fieldY w).val = w.toNat / 16 % 16 := by simp [fieldY, bits]

theorem fieldN_eq (w : Word) : fieldN w = w.toNat % 16 := by simp [fieldN, bits]

theorem fieldSub_eq (w : Word) : fieldSub w = w.toNat % 256 := by simp [fieldSub, bits]

theorem fieldKk_toNat (w : Word) : (fieldKk w).toNat = w.toNat % 256 := by simp [fieldKk, fieldSub_eq]

theorem fieldAddr_toNat (w : Word) : (fieldAddr w).toNat = w.toNat % 4096 := by
  simp only [fieldAddr, bits, BitVec.toNat_ofNat]
  omega

/-- The fields of a word of format A. -/
theorem fields_encodeA (f : Nat) (addr : Word) (hf : f < 16) (ha : addr.toNat < 4096) :
    fieldF (encodeA f addr) = f ∧ fieldAddr (encodeA f addr) = addr := by
  have hw : (encodeA f addr).toNat = f * 4096 + addr.toNat := by
    simp only [encodeA, BitVec.toNat_ofNat]
    omega
  refine ⟨by rw [fieldF_eq, hw]; omega, BitVec.eq_of_toNat_eq ?_⟩
  rw [fieldAddr_toNat, hw]
  omega

/-- The fields of a word of format XK or XS. -/
theorem fields_encodeXK (f : Nat) (x : Reg) (kk : Nat) (hf : f < 16) (hk : kk < 256) :
    fieldF (encodeXK f x kk) = f ∧ fieldX (encodeXK f x kk) = x ∧ fieldSub (encodeXK f x kk) = kk := by
  have hx := x.isLt
  have hw : (encodeXK f x kk).toNat = f * 4096 + x.val * 256 + kk := by
    simp only [encodeXK, BitVec.toNat_ofNat]
    omega
  refine ⟨by rw [fieldF_eq, hw]; omega, Fin.ext ?_, by rw [fieldSub_eq, hw]; omega⟩
  rw [fieldX_val, hw]
  omega

/-- The fields of a word of format XYN or XY. -/
theorem fields_encodeXYN (f : Nat) (x y : Reg) (n : Nat) (hf : f < 16) (hn : n < 16) :
    fieldF (encodeXYN f x y n) = f ∧ fieldX (encodeXYN f x y n) = x ∧ fieldY (encodeXYN f x y n) = y ∧
      fieldN (encodeXYN f x y n) = n := by
  have hx := x.isLt
  have hy := y.isLt
  have hw : (encodeXYN f x y n).toNat = f * 4096 + x.val * 256 + y.val * 16 + n := by
    simp only [encodeXYN, BitVec.toNat_ofNat]
    omega
  refine ⟨by rw [fieldF_eq, hw]; omega, Fin.ext ?_, Fin.ext ?_, by rw [fieldN_eq, hw]; omega⟩
  · rw [fieldX_val, hw]
    omega
  · rw [fieldY_val, hw]
    omega

/-- The bytes of a word, high byte first, make the word again (R58, R70). -/
theorem wordOfBytes_bytes (w : Word) : wordOfBytes (highByte w) (lowByte w) = w := by
  have := w.isLt
  apply BitVec.eq_of_toNat_eq
  simp only [wordOfBytes, highByte, lowByte, BitVec.toNat_ofNat]
  omega

/-! ### Words under the masks of the opcode map (R76) -/

/-- The top nibble alone: the mask of the one-instruction families. -/
theorem toNat_and_F000 (w : Word) : (w &&& 0xF000).toNat = 2 ^ 12 * (w.toNat / 4096) := by
  have h : w &&& 0xF000#16 = (w >>> 12) <<< 12 := by
    ext i hi
    interval_cases i <;> simp
  have := w.isLt
  show (w &&& 0xF000#16).toNat = _
  rw [h]
  simp [BitVec.toNat_shiftLeft, Nat.shiftLeft_eq, Nat.shiftRight_eq_div_pow]
  omega

/-- The top nibble together with the low `k` bits, `k` up to 12. -/
theorem toNat_and_top_low (w m : Word) (k : Nat) (hk : k ≤ 12) (hm : m.toNat = 0xF000 ||| (2 ^ k - 1)) :
    (w &&& m).toNat = w.toNat / 4096 * 4096 + w.toNat % 2 ^ k := by
  have h1 : w.toNat &&& 0xF000 = 2 ^ 12 * (w.toNat / 4096) := toNat_and_F000 w
  have h2 : w.toNat % 2 ^ k < 2 ^ 12 :=
    lt_of_lt_of_le (Nat.mod_lt _ (by positivity)) (Nat.pow_le_pow_right (by decide) hk)
  rw [BitVec.toNat_and, hm, Nat.and_or_distrib_left, h1, Nat.and_two_pow_sub_one_eq_mod,
    ← Nat.two_pow_add_eq_or_of_lt h2]
  omega

/-- The mask of families 5, 8 and 9. -/
theorem toNat_and_F00F (w : Word) : (w &&& 0xF00F).toNat = w.toNat / 4096 * 4096 + w.toNat % 16 :=
  toNat_and_top_low w _ 4 (by decide) (by decide)

/-- The mask of families E and F. -/
theorem toNat_and_F0FF (w : Word) : (w &&& 0xF0FF).toNat = w.toNat / 4096 * 4096 + w.toNat % 256 :=
  toNat_and_top_low w _ 8 (by decide) (by decide)

end Sys2Proof
end

