-- ==== Sys2Proof/Laws/Display.lean ====
section
/-! SUPPORT. The plotter: which pixels a sprite toggles, and when it collides (R151 to R153). -/

namespace Sys2Proof.Machine

/-- The plot step from `p` to `q` inverts exactly the pixels in `T`, and reports a collision when `p` had one or some
pixel of `T` was on. -/
def Toggles (T : Nat → Nat → Prop) (p q : Plot) : Prop :=
  (∀ x y, (T x y → q.1.pixel x y = !p.1.pixel x y) ∧ (¬ T x y → q.1.pixel x y = p.1.pixel x y)) ∧
  (q.2 = true ↔ p.2 = true ∨ ∃ x y, T x y ∧ p.1.pixel x y = true)

theorem Toggles.refl (p : Plot) : Toggles (fun _ _ => False) p p := by simp [Toggles]

/-- Two plot steps over disjoint sets of pixels make one over their union. -/
theorem Toggles.trans {T U : Nat → Nat → Prop} {p q r : Plot} (h : Toggles T p q) (k : Toggles U q r)
    (disj : ∀ x y, T x y → ¬ U x y) : Toggles (fun x y => T x y ∨ U x y) p r := by
  refine ⟨fun x y => ⟨?_, ?_⟩, ?_⟩
  · rintro (ht | hu)
    · rw [((k.1 x y).2 (disj x y ht)), (h.1 x y).1 ht]
    · have ht : ¬ T x y := fun ht => disj x y ht hu
      rw [(k.1 x y).1 hu, (h.1 x y).2 ht]
  · intro hn
    rw [(k.1 x y).2 fun hu => hn (.inr hu), (h.1 x y).2 fun ht => hn (.inl ht)]
  · rw [k.2, h.2]
    constructor
    · rintro ((hp | ⟨x, y, ht, hp⟩) | ⟨x, y, hu, hq⟩)
      · exact .inl hp
      · exact .inr ⟨x, y, .inl ht, hp⟩
      · have ht : ¬ T x y := fun ht => disj x y ht hu
        exact .inr ⟨x, y, .inr hu, (h.1 x y).2 ht ▸ hq⟩
    · rintro (hp | ⟨x, y, ht | hu, hp⟩)
      · exact .inl (.inl hp)
      · exact .inl (.inr ⟨x, y, ht, hp⟩)
      · have ht : ¬ T x y := fun ht => disj x y ht hu
        exact .inr ⟨x, y, hu, ((h.1 x y).2 ht).trans hp⟩

theorem Toggles.congr {T U : Nat → Nat → Prop} {p q : Plot} (h : Toggles T p q) (e : ∀ x y, U x y ↔ T x y) :
    Toggles U p q := by
  obtain rfl : U = T := funext fun x => funext fun y => propext (e x y)
  exact h

/-- One set sprite bit toggles its pixel if it is on the screen. -/
theorem toggles_plotPixel (p : Plot) (px py : Nat) :
    Toggles (fun x y => px < 64 ∧ py < 32 ∧ x = px ∧ y = py) p (plotPixel p px py) := by
  unfold plotPixel
  split
  · next h =>
    refine ⟨fun x y => ⟨fun ht => ?_, fun hn => ?_⟩, ?_⟩
    · exact (Framebuffer.pixel_toggle p.1 px py x y).trans (if_pos ht)
    · exact (Framebuffer.pixel_toggle p.1 px py x y).trans (if_neg hn)
    · rw [Bool.or_eq_true]
      constructor
      · exact Or.imp_right fun hp => ⟨px, py, ⟨h.1, h.2, rfl, rfl⟩, hp⟩
      · rintro (hp | ⟨x, y, ⟨-, -, rfl, rfl⟩, hp⟩)
        · exact .inl hp
        · exact .inr hp
  · next h =>
    exact (Toggles.refl p).congr fun x y => ⟨fun ht => h ⟨ht.1, ht.2.1⟩, False.elim⟩

/-- The last `n` columns of a sprite byte toggle the pixels under its set bits below `n`. -/
theorem toggles_plotColumns (b : Byte) (ox py n : Nat) (hn : n ≤ 8) (p : Plot) :
    Toggles (fun x y => x < 64 ∧ y < 32 ∧ y = py ∧ ox + 8 ≤ x + n ∧ x < ox + 8 ∧ b.getLsbD (7 - (x - ox)) = true)
      p (plotColumns b ox py n p) := by
  induction n generalizing p with
  | zero =>
    exact (Toggles.refl p).congr fun x y => ⟨fun h => by omega, False.elim⟩
  | succ n ih =>
    rw [plotColumns]
    by_cases hb : b.getLsbD n = true
    · rw [if_pos hb]
      refine ((toggles_plotPixel p (ox + (7 - n)) py).trans (ih (by omega) _) ?_).congr ?_
      · rintro x y ⟨-, -, rfl, rfl⟩ h
        omega
      · intro x y
        constructor
        · rintro ⟨h1, h2, rfl, h4, h5, h6⟩
          by_cases hx : x = ox + (7 - n)
          · exact .inl ⟨hx ▸ h1, h2, hx, rfl⟩
          · exact .inr ⟨h1, h2, rfl, by omega, h5, h6⟩
        · rintro (⟨h1, h2, rfl, rfl⟩ | ⟨h1, h2, rfl, h4, h5, h6⟩)
          · have : 7 - (ox + (7 - n) - ox) = n := by omega
            exact ⟨h1, h2, rfl, by omega, by omega, by rw [this]; exact hb⟩
          · exact ⟨h1, h2, rfl, by omega, h5, h6⟩
    · rw [if_neg hb]
      refine (ih (by omega) p).congr fun x y => ?_
      constructor
      · rintro ⟨h1, h2, rfl, h4, h5, h6⟩
        refine ⟨h1, h2, rfl, ?_, h5, h6⟩
        by_contra hlt
        have : 7 - (x - ox) = n := by omega
        exact hb (this ▸ h6)
      · rintro ⟨h1, h2, rfl, h4, h5, h6⟩
        exact ⟨h1, h2, rfl, by omega, h5, h6⟩

/-- A sprite of rows `rows` with its first row at `py` toggles the pixels on the screen under its set bits. -/
theorem toggles_plotRows (ox : Nat) (rows : List Byte) (py : Nat) (p : Plot) :
    Toggles (fun x y => x < 64 ∧ y < 32 ∧ ox ≤ x ∧ py ≤ y ∧ y - py < rows.length ∧ x - ox < 8 ∧
        (rows.getD (y - py) 0).getLsbD (7 - (x - ox)) = true) p (plotRows ox rows py p) := by
  induction rows generalizing py p with
  | nil => exact (Toggles.refl p).congr fun x y => ⟨fun h => by simp at h, False.elim⟩
  | cons b rest ih =>
    rw [plotRows]
    refine ((toggles_plotColumns b ox py 8 (le_refl 8) p).trans (ih (py + 1) _) ?_).congr ?_
    · rintro x y ⟨-, -, rfl, -⟩ h
      omega
    · intro x y
      constructor
      · rintro ⟨h1, h2, h3, h4, h5, h6, h7⟩
        by_cases hy : y = py
        · subst hy
          rw [Nat.sub_self, List.getD_cons_zero] at h7
          exact .inl ⟨h1, h2, rfl, by omega, by omega, h7⟩
        · obtain ⟨j, hj⟩ : ∃ j, y - py = j + 1 := ⟨y - py - 1, by omega⟩
          have hj' : y - (py + 1) = j := by omega
          rw [hj, List.getD_cons_succ] at h7
          rw [List.length_cons] at h5
          exact .inr ⟨h1, h2, h3, by omega, by omega, h6, by rw [hj']; exact h7⟩
      · rintro (⟨h1, h2, rfl, h4, h5, h6⟩ | ⟨h1, h2, h3, h4, h5, h6, h7⟩)
        · refine ⟨h1, h2, by omega, le_refl y, by simp, by omega, ?_⟩
          rw [Nat.sub_self, List.getD_cons_zero]
          exact h6
        · obtain ⟨j, hj⟩ : ∃ j, y - py = j + 1 := ⟨y - py - 1, by omega⟩
          have hj' : y - (py + 1) = j := by omega
          refine ⟨h1, h2, h3, by omega, by rw [List.length_cons]; omega, h6, ?_⟩
          rw [hj, List.getD_cons_succ, ← hj']
          exact h7

/-- `Dxyn`'s plotting, said once: the pixels `spriteHits` names are inverted and no other, and there is a collision
exactly when one of them was on (R151). -/
theorem toggles_drawSprite (s : State) (n ox oy : Nat) :
    Toggles (s.spriteHits n ox oy) (s.fb, false) (drawSprite s.fb ox oy (s.bytes s.base n)) := by
  refine (toggles_plotRows ox (s.bytes s.base n) oy (s.fb, false)).congr fun x y => ?_
  rw [State.length_bytes]
  constructor
  · rintro ⟨h1, h2, h3, h4, h5, h6, h7⟩
    refine ⟨h1, h2, h3, h4, h5, h6, ?_⟩
    rw [State.getD_bytes _ _ _ _ h5]
    exact h7
  · rintro ⟨h1, h2, h3, h4, h5, h6, h7⟩
    rw [State.getD_bytes _ _ _ _ h5] at h7
    exact ⟨h1, h2, h3, h4, h5, h6, h7⟩

end Sys2Proof.Machine
end

