-- ==== Sys2Proof/Laws/Frames.lean ====
section
/-! SUPPORT. Frames: which cells each shared operation changes, said once. -/

namespace Sys2Proof.Machine

theorem OnlyChanges.refl (w : Set Part) (s : State) : OnlyChanges w s s := by
  intro p _
  cases p <;> rfl

theorem OnlyChanges.mono {v w : Set Part} {s t : State} (h : OnlyChanges v s t) (hvw : v ⊆ w) :
    OnlyChanges w s t := fun p hp => h p fun hv => hp (hvw hv)

theorem Part.Same.trans {s t u : State} {p : Part} (h : p.Same s t) (k : p.Same t u) : p.Same s u := by
  cases p <;> exact Eq.trans k h

theorem OnlyChanges.trans {v w : Set Part} {s t u : State} (h : OnlyChanges v s t) (k : OnlyChanges w t u) :
    OnlyChanges (v ∪ w) s u := fun p hp =>
  (h p fun hv => hp (.inl hv)).trans (k p fun hw => hp (.inr hw))

/-- Two changes within the same cells. -/
theorem OnlyChanges.step {w : Set Part} {s t u : State} (h : OnlyChanges w s t) (k : OnlyChanges w t u) :
    OnlyChanges w s u := (h.trans k).mono (by simp)

theorem onlyChanges_setReg (s : State) (x : Reg) (b : Byte) : OnlyChanges {.reg x} s (s.setReg x b) := by
  intro p hp
  cases p with
  | reg y => exact State.reg_setReg_other s b fun e => hp (by simp [e])
  | _ => rfl

theorem onlyChanges_setWithFlag (s : State) (x : Reg) (b : Byte) (f : Bool) :
    OnlyChanges {.reg x, .reg vf} s (s.setWithFlag x b f) :=
  ((onlyChanges_setReg s x b).trans (onlyChanges_setReg _ vf _)).mono (by intro p; simp [or_comm])

theorem onlyChanges_setI (s : State) (w : Word) : OnlyChanges {.index} s (s.setI w) := by
  intro p hp
  cases p <;> first | rfl | exact absurd rfl hp

theorem onlyChanges_setPc (s : State) (w : Word) : OnlyChanges {.pc} s (s.setPc w) := by
  intro p hp
  cases p <;> first | rfl | exact absurd rfl hp

theorem onlyChanges_advance (s : State) : OnlyChanges {.pc} s s.advance := onlyChanges_setPc s _

theorem onlyChanges_setDt (s : State) (b : Byte) : OnlyChanges {.dt} s (s.setDt b) := by
  intro p hp
  cases p <;> first | rfl | exact absurd rfl hp

theorem onlyChanges_setSt (s : State) (b : Byte) : OnlyChanges {.st} s (s.setSt b) := by
  intro p hp
  cases p <;> first | rfl | exact absurd rfl hp

theorem onlyChanges_setChanged (s : State) (b : Bool) : OnlyChanges {.changed} s (s.setChanged b) := by
  intro p hp
  cases p <;> first | rfl | exact absurd rfl hp

theorem onlyChanges_setStatus (s : State) (c : Status) : OnlyChanges {.status} s (s.setStatus c) := by
  intro p hp
  cases p <;> first | rfl | exact absurd rfl hp

theorem onlyChanges_setSchedule (s : State) (l : List Event) : OnlyChanges {.schedule} s (s.setSchedule l) := by
  intro p hp
  cases p <;> first | rfl | exact absurd rfl hp

theorem onlyChanges_drawn (s : State) : OnlyChanges {.draws} s s.drawn := by
  intro p hp
  cases p <;> first | rfl | exact absurd rfl hp

theorem onlyChanges_setKeyBit (s : State) (k : Key) (b : Bool) : OnlyChanges {.key k} s (s.setKeyBit k b) := by
  intro p hp
  cases p with
  | key j => exact (State.key_setKeyBit s k j b).trans (if_neg fun e => hp (by simp [e]))
  | _ => rfl

theorem onlyChanges_setFb (s : State) (f : Framebuffer) : OnlyChanges allPixels s (s.setFb f) := by
  intro p hp
  cases p with
  | pixel x y => exact absurd ⟨x, y, rfl⟩ hp
  | _ => rfl

theorem onlyChanges_push (s : State) (k : Fin 16) (w : Word) :
    OnlyChanges {.stackEntry k, .sp} s (s.push k w) := by
  intro p hp
  cases p with
  | stackEntry j => exact (State.stack_push s k j w).trans (if_neg fun e => hp (by simp [e]))
  | sp => exact absurd (by simp) hp
  | _ => rfl

theorem onlyChanges_popToPc (s : State) (k : Fin 16) : OnlyChanges {.sp, .pc} s (s.popToPc k) := by
  intro p hp
  cases p <;> first | rfl | exact absurd (by simp) hp

theorem mem_bytesAt {a n x : Nat} (h1 : a ≤ x) (h2 : x < a + n) : Part.byte x ∈ bytesAt a n :=
  ⟨x - a, by omega, by rw [Nat.add_sub_cancel' h1]⟩

/-- A store of several bytes within memory changes those bytes and nothing else. -/
theorem onlyChanges_store (s : State) (a : Nat) (l : List Byte) (h : a + l.length ≤ Config.memSize) :
    OnlyChanges (bytesAt a l.length) s (s.store a l) := by
  intro p hp
  cases p with
  | byte x =>
    show (s.store a l).byte x = s.byte x
    have hx : ¬ (a ≤ x ∧ x < a + l.length) := fun hx =>
      hp (mem_bytesAt hx.1 hx.2)
    rw [State.byte_store s a l h x, if_neg hx]
  | _ => rfl

theorem onlyChanges_setRegs (s : State) (v : Vector Byte 16) :
    OnlyChanges {p | ∃ k : Reg, p = .reg k} s (s.setRegs v) := by
  intro p hp
  cases p with
  | reg k => exact absurd ⟨k, rfl⟩ hp
  | _ => rfl

theorem onlyChanges_loadedRegs (s : State) (x : Reg) :
    OnlyChanges {p | ∃ k : Reg, k ≤ x ∧ p = .reg k} s (s.setRegs (s.loadedRegs x)) := by
  intro p hp
  by_cases hr : ∃ k : Reg, p = .reg k
  · obtain ⟨k, rfl⟩ := hr
    show (s.setRegs (s.loadedRegs x)).reg k = s.reg k
    have hk : ¬ k ≤ x := fun hk => hp ⟨k, hk, rfl⟩
    rw [State.reg_setRegs_loadedRegs, if_neg hk]
  · exact onlyChanges_setRegs s _ p hr

/-- `raise Fault(c)` is exactly what R9 says it is. -/
theorem faultedFrom_raise (s : State) (c : FaultCause) : FaultedFrom s (s.raise c) c := by
  refine ⟨rfl, rfl, fun p hp => ?_⟩
  cases p <;> first | rfl | exact absurd (by simp) hp

/-- A sprite's effect on the state: pixels, VF and the changed flag, nothing else (R151). -/
theorem onlyChanges_plotted (s : State) (p : Plot) :
    OnlyChanges ({.reg vf, .changed} ∪ allPixels) s (s.plotted p) :=
  (((onlyChanges_setFb s p.1).mono (by intro q; simp +contextual)).step
    ((onlyChanges_setReg _ vf _).mono (by intro q; simp +contextual))).step
    ((onlyChanges_setChanged _ true).mono (by intro q; simp +contextual))

/-! ### What the control shapes answer -/

/-- A skip answers a next state, with `pc` two further or as it was (R103). -/
theorem skipIf_eq (c : Bool) (s : State) :
    skipIf c s = .next (s.setPc (if c = true then s.pc + 2 else s.pc)) := by
  cases c <;> rfl

/-- The bounded memory instructions: the body's answer within bounds, MemoryOutOfBounds beyond (R57). -/
theorem withBounds_next {len : Nat} {s t : State} {body : State → Result} (h : withBounds len s body = .next t) :
    (s.inBounds len ∧ body s = .next t) ∨ (¬ s.inBounds len ∧ t = s.raise .memoryOutOfBounds) := by
  unfold withBounds at h
  split at h
  · exact .inl ⟨‹_›, h⟩
  · cases h
    exact .inr ⟨‹_›, rfl⟩

end Sys2Proof.Machine
end

