-- ==== Sys2Proof/Laws/Exec.lean ====
section
/-! SUPPORT. What an instruction can do, said once: its writes, or its one fault (R94, R96). -/

namespace Sys2Proof

open Machine in
/-- The cells an instruction may write when it completes (R21, R25, R39). -/
def Instr.writes : Instr → Set Part
  | .ret => {.sp, .pc}
  | .call _ => {p | ∃ k, p = .stackEntry k} ∪ {.sp, .pc}
  | .jp _ | .jpV0 _ | .skipEqImm _ _ | .skipNeImm _ _ | .skipEqReg _ _ | .skipNeReg _ _ | .skipKey _ | .skipNoKey _ => {.pc}
  | .loadImm x _ | .addImm x _ | .copy x _ | .orReg x _ | .andReg x _ | .xorReg x _ | .readDelay x => {.reg x}
  | .addReg x _ | .subReg x _ | .shr x _ | .subnReg x _ | .shl x _ => {.reg x, .reg vf}
  | .rnd x _ => {.reg x, .draws}
  | .loadI _ | .addI _ | .glyph _ => {.index}
  | .storeBcd _ | .storeRegs _ => {p | ∃ a, p = .byte a}
  | .loadRegs _ => {p | ∃ k, p = .reg k}
  | .cls => {.changed} ∪ allPixels
  | .draw _ _ _ => {.reg vf, .changed} ∪ allPixels
  | .waitKey x => {.reg x, .pc}
  | .setDelay _ => {.dt}
  | .setSound _ => {.st}

end Sys2Proof

namespace Sys2Proof.Machine

theorem onlyChanges_skipIf {c : Bool} {s t : State} (h : skipIf c s = .next t) : OnlyChanges {.pc} s t := by
  rw [skipIf_eq] at h
  cases h
  exact onlyChanges_setPc s _

theorem onlyChanges_setMem (s : State) (m : Memory) : OnlyChanges {p | ∃ a, p = .byte a} s (s.setMem m) := by
  intro p hp
  cases p with
  | byte x => exact absurd ⟨x, rfl⟩ hp
  | _ => rfl

/-- All an instruction can do when it answers a next state: write its own cells, or raise its one fault and nothing else
(R94, R96). -/
theorem exec_frame (i : Instr) (s t : State) (h : exec i s = .next t) :
    OnlyChanges i.writes s t ∨ (t = s.raise .stackOverflow ∧ i.mnemonic = "2addr") ∨
    (t = s.raise .stackUnderflow ∧ i.mnemonic = "00EE") ∨
    (t = s.raise .memoryOutOfBounds ∧ i.mnemonic ∈ ["Dxyn", "Fx33", "Fx55", "Fx65"]) := by
  cases i
  case ret =>
    simp only [exec, execRet] at h
    split at h
    · cases h; exact .inr (.inr (.inl ⟨rfl, rfl⟩))
    · split at h
      · cases h; exact .inl (onlyChanges_popToPc s _)
      · cases h
  case call a =>
    simp only [exec, execCall] at h
    split at h
    · cases h; exact .inr (.inl ⟨rfl, rfl⟩)
    · split at h
      · cases h
        refine .inl (((onlyChanges_push s _ _).trans (onlyChanges_setPc _ a)).mono ?_)
        intro p; simp [Instr.writes]; rintro (rfl|rfl|rfl) <;> simp
      · cases h
  case storeBcd x =>
    simp only [exec, execStoreBcd] at h
    rcases withBounds_next h with ⟨-, h⟩ | ⟨-, h⟩
    · cases h; exact .inl (onlyChanges_setMem s _)
    · exact .inr (.inr (.inr ⟨h, by simp [Instr.mnemonic]⟩))
  case storeRegs x =>
    simp only [exec, execStoreRegs] at h
    rcases withBounds_next h with ⟨-, h⟩ | ⟨-, h⟩
    · cases h; exact .inl (onlyChanges_setMem s _)
    · exact .inr (.inr (.inr ⟨h, by simp [Instr.mnemonic]⟩))
  case loadRegs x =>
    simp only [exec, execLoadRegs] at h
    rcases withBounds_next h with ⟨-, h⟩ | ⟨-, h⟩
    · cases h; exact .inl (onlyChanges_setRegs s _)
    · exact .inr (.inr (.inr ⟨h, by simp [Instr.mnemonic]⟩))
  case draw x y n =>
    simp only [exec, execDraw] at h
    rcases withBounds_next h with ⟨-, h⟩ | ⟨-, h⟩
    · cases h; exact .inl (onlyChanges_plotted s _)
    · exact .inr (.inr (.inr ⟨h, by simp [Instr.mnemonic]⟩))
  case waitKey x =>
    simp only [exec, execWaitKey] at h
    split at h
    · cases h; exact .inl ((onlyChanges_setReg s x _).mono (by intro p; simp [Instr.writes]; tauto))
    · cases h; exact .inl ((onlyChanges_setPc s _).mono (by intro p; simp +contextual [Instr.writes]))
  case skipEqImm => exact .inl (onlyChanges_skipIf h)
  case skipNeImm => exact .inl (onlyChanges_skipIf h)
  case skipEqReg => exact .inl (onlyChanges_skipIf h)
  case skipNeReg => exact .inl (onlyChanges_skipIf h)
  case skipKey => exact .inl (onlyChanges_skipIf h)
  case skipNoKey => exact .inl (onlyChanges_skipIf h)
  case jp => cases h; exact .inl (onlyChanges_setPc s _)
  case jpV0 => cases h; exact .inl (onlyChanges_setPc s _)
  case loadImm => cases h; exact .inl (onlyChanges_setReg s _ _)
  case addImm => cases h; exact .inl (onlyChanges_setReg s _ _)
  case copy => cases h; exact .inl (onlyChanges_setReg s _ _)
  case orReg => cases h; exact .inl (onlyChanges_setReg s _ _)
  case andReg => cases h; exact .inl (onlyChanges_setReg s _ _)
  case xorReg => cases h; exact .inl (onlyChanges_setReg s _ _)
  case readDelay => cases h; exact .inl (onlyChanges_setReg s _ _)
  case addReg => cases h; exact .inl (onlyChanges_setWithFlag s _ _ _)
  case subReg => cases h; exact .inl (onlyChanges_setWithFlag s _ _ _)
  case subnReg => cases h; exact .inl (onlyChanges_setWithFlag s _ _ _)
  case shr => cases h; exact .inl (onlyChanges_setWithFlag s _ _ _)
  case shl => cases h; exact .inl (onlyChanges_setWithFlag s _ _ _)
  case rnd => cases h; exact .inl (((onlyChanges_drawn s).trans (onlyChanges_setReg _ _ _)).mono (by intro p; simp [Instr.writes, or_comm]))
  case loadI => cases h; exact .inl (onlyChanges_setI s _)
  case addI => cases h; exact .inl (onlyChanges_setI s _)
  case glyph => cases h; exact .inl (onlyChanges_setI s _)
  case cls => cases h; exact .inl (((onlyChanges_setFb s _).trans (onlyChanges_setChanged _ true)).mono (by intro p; simp [Instr.writes]))
  case setDelay => cases h; exact .inl (onlyChanges_setDt s _)
  case setSound => cases h; exact .inl (onlyChanges_setSt s _)


/-- A cell, other than `status` and `cause`, that an instruction changes is one of its writes. -/
theorem mem_writes_of_changed {i : Instr} {s t : State} (h : exec i s = .next t) {p : Part} (h1 : p ≠ .status)
    (h2 : p ≠ .cause) (hd : ¬ p.Same s t) : p ∈ i.writes := by
  rcases exec_frame i s t h with f | ⟨rfl, -⟩ | ⟨rfl, -⟩ | ⟨rfl, -⟩
  · by_contra hp
    exact hd (f p hp)
  all_goals exact absurd ((faultedFrom_raise s _).2.2 p (by simp [h1, h2])) hd

end Sys2Proof.Machine
end

