-- ==== Sys2Proof/Laws/PerInstr.lean ====
section
/-! SUPPORT. The family of an instruction is the top nibble of its encoding (R71, R74), one lemma per constructor. -/

namespace Sys2Proof.Laws.TopNibble

/-- The top nibble of each pattern of the opcode map (R76). -/
def family : Instr → Nat
  | .ret => 0x0
  | .jp _ => 0x1
  | .call _ => 0x2
  | .skipEqImm _ _ => 0x3
  | .skipNeImm _ _ => 0x4
  | .skipEqReg _ _ => 0x5
  | .skipNeReg _ _ => 0x9
  | .jpV0 _ => 0xB
  | .loadImm _ _ => 0x6
  | .addImm _ _ => 0x7
  | .copy _ _ => 0x8
  | .orReg _ _ => 0x8
  | .andReg _ _ => 0x8
  | .xorReg _ _ => 0x8
  | .addReg _ _ => 0x8
  | .subReg _ _ => 0x8
  | .shr _ _ => 0x8
  | .subnReg _ _ => 0x8
  | .shl _ _ => 0x8
  | .rnd _ _ => 0xC
  | .loadI _ => 0xA
  | .addI _ => 0xF
  | .glyph _ => 0xF
  | .storeBcd _ => 0xF
  | .storeRegs _ => 0xF
  | .loadRegs _ => 0xF
  | .cls => 0x0
  | .draw _ _ _ => 0xD
  | .skipKey _ => 0xE
  | .skipNoKey _ => 0xE
  | .waitKey _ => 0xF
  | .readDelay _ => 0xF
  | .setDelay _ => 0xF
  | .setSound _ => 0xF

/-- The encoding of a well-formed instruction selects the instruction's family (R74). -/
def Statement (i : Instr) : Prop := i.WellFormed → fieldF (encode i) = family i

theorem of_encodeA (f : Nat) (addr : Word) (hf : f < 16) (ha : addr.toNat < 4096) : fieldF (encodeA f addr) = f := by
  simp only [fieldF, bits, encodeA, BitVec.toNat_ofNat]
  omega

theorem of_encodeXK (f : Nat) (x : Reg) (kk : Nat) (hf : f < 16) (hk : kk < 256) : fieldF (encodeXK f x kk) = f := by
  have := x.isLt
  simp only [fieldF, bits, encodeXK, BitVec.toNat_ofNat]
  omega

theorem of_encodeXYN (f : Nat) (x y : Reg) (n : Nat) (hf : f < 16) (hn : n < 16) : fieldF (encodeXYN f x y n) = f := by
  have := x.isLt
  have := y.isLt
  simp only [fieldF, bits, encodeXYN, BitVec.toNat_ofNat]
  omega

theorem ret : Statement .ret := fun _ => by decide
theorem jp (addr : Word) : Statement (.jp addr) := fun h => of_encodeA _ addr (by decide) (of_decide_eq_true h)
theorem call (addr : Word) : Statement (.call addr) := fun h => of_encodeA _ addr (by decide) (of_decide_eq_true h)
theorem skipEqImm (x : Reg) (kk : Byte) : Statement (.skipEqImm x kk) := fun _ => of_encodeXK _ x _ (by decide) kk.isLt
theorem skipNeImm (x : Reg) (kk : Byte) : Statement (.skipNeImm x kk) := fun _ => of_encodeXK _ x _ (by decide) kk.isLt
theorem skipEqReg (x y : Reg) : Statement (.skipEqReg x y) := fun _ => of_encodeXYN _ x y _ (by decide) (by decide)
theorem skipNeReg (x y : Reg) : Statement (.skipNeReg x y) := fun _ => of_encodeXYN _ x y _ (by decide) (by decide)
theorem jpV0 (addr : Word) : Statement (.jpV0 addr) := fun h => of_encodeA _ addr (by decide) (of_decide_eq_true h)
theorem loadImm (x : Reg) (kk : Byte) : Statement (.loadImm x kk) := fun _ => of_encodeXK _ x _ (by decide) kk.isLt
theorem addImm (x : Reg) (kk : Byte) : Statement (.addImm x kk) := fun _ => of_encodeXK _ x _ (by decide) kk.isLt
theorem copy (x y : Reg) : Statement (.copy x y) := fun _ => of_encodeXYN _ x y _ (by decide) (by decide)
theorem orReg (x y : Reg) : Statement (.orReg x y) := fun _ => of_encodeXYN _ x y _ (by decide) (by decide)
theorem andReg (x y : Reg) : Statement (.andReg x y) := fun _ => of_encodeXYN _ x y _ (by decide) (by decide)
theorem xorReg (x y : Reg) : Statement (.xorReg x y) := fun _ => of_encodeXYN _ x y _ (by decide) (by decide)
theorem addReg (x y : Reg) : Statement (.addReg x y) := fun _ => of_encodeXYN _ x y _ (by decide) (by decide)
theorem subReg (x y : Reg) : Statement (.subReg x y) := fun _ => of_encodeXYN _ x y _ (by decide) (by decide)
theorem shr (x y : Reg) : Statement (.shr x y) := fun _ => of_encodeXYN _ x y _ (by decide) (by decide)
theorem subnReg (x y : Reg) : Statement (.subnReg x y) := fun _ => of_encodeXYN _ x y _ (by decide) (by decide)
theorem shl (x y : Reg) : Statement (.shl x y) := fun _ => of_encodeXYN _ x y _ (by decide) (by decide)
theorem rnd (x : Reg) (kk : Byte) : Statement (.rnd x kk) := fun _ => of_encodeXK _ x _ (by decide) kk.isLt
theorem loadI (addr : Word) : Statement (.loadI addr) := fun h => of_encodeA _ addr (by decide) (of_decide_eq_true h)
theorem addI (x : Reg) : Statement (.addI x) := fun _ => of_encodeXK _ x _ (by decide) (by decide)
theorem glyph (x : Reg) : Statement (.glyph x) := fun _ => of_encodeXK _ x _ (by decide) (by decide)
theorem storeBcd (x : Reg) : Statement (.storeBcd x) := fun _ => of_encodeXK _ x _ (by decide) (by decide)
theorem storeRegs (x : Reg) : Statement (.storeRegs x) := fun _ => of_encodeXK _ x _ (by decide) (by decide)
theorem loadRegs (x : Reg) : Statement (.loadRegs x) := fun _ => of_encodeXK _ x _ (by decide) (by decide)
theorem cls : Statement .cls := fun _ => by decide
theorem draw (x y : Reg) (n : Nat) : Statement (.draw x y n) := fun h => of_encodeXYN _ x y n (by decide) (of_decide_eq_true h)
theorem skipKey (x : Reg) : Statement (.skipKey x) := fun _ => of_encodeXK _ x _ (by decide) (by decide)
theorem skipNoKey (x : Reg) : Statement (.skipNoKey x) := fun _ => of_encodeXK _ x _ (by decide) (by decide)
theorem waitKey (x : Reg) : Statement (.waitKey x) := fun _ => of_encodeXK _ x _ (by decide) (by decide)
theorem readDelay (x : Reg) : Statement (.readDelay x) := fun _ => of_encodeXK _ x _ (by decide) (by decide)
theorem setDelay (x : Reg) : Statement (.setDelay x) := fun _ => of_encodeXK _ x _ (by decide) (by decide)
theorem setSound (x : Reg) : Statement (.setSound x) := fun _ => of_encodeXK _ x _ (by decide) (by decide)

end Sys2Proof.Laws.TopNibble
end

