-- ==== Sys2Proof/Laws/Step.lean ====
section
/-! SUPPORT. What a step can do, said once (R90 to R96). -/

namespace Sys2Proof.Machine

/-- The three ways a step of the dispatcher goes: the decoded instruction, an illegal word, a fetch beyond memory. -/
theorem dispatcherStep_cases (s : State) :
    (∃ i, s.Fetches i ∧ dispatcherStep s = exec i s.advance) ∨
    (fetchable s.pc ∧ (∃ e, decode s.fetchedWord = .error e) ∧
      dispatcherStep s = .next (s.advance.raise .unknownOpcode)) ∨
    (¬ fetchable s.pc ∧ dispatcherStep s = .next (s.raise .fetchOutOfBounds)) := by
  unfold dispatcherStep
  split
  · next hf =>
    unfold execute
    split
    · next i hd => exact .inl ⟨i, ⟨hf, hd⟩, rfl⟩
    · next e hd => exact .inr (.inl ⟨hf, ⟨e, hd⟩, rfl⟩)
  · next hf => exact .inr (.inr ⟨hf, rfl⟩)

/-- The three ways the machine moves: a scheduled event, the dispatcher's own step, no step at all. -/
theorem step_cases (s : State) :
    (∃ e rest, s.schedule = e :: rest ∧ step s = applyEvent e (s.setSchedule rest)) ∨
    (s.schedule = [] ∧ s.status = .running ∧ step s = dispatcherStep s) ∨
    (s.schedule = [] ∧ s.status ≠ .running ∧ step s = .fault .notRunning) := by
  unfold step nextEvent
  split
  · next e rest h => exact .inl ⟨e, rest, h, rfl⟩
  · next h =>
    by_cases hr : s.status = .running
    · exact .inr (.inl ⟨h, hr, if_pos hr⟩)
    · exact .inr (.inr ⟨h, hr, if_neg hr⟩)

/-- A fetch that is in bounds leaves room for the advance: no wrap of `pc` (R92). -/
theorem toNat_advance_pc {s : State} (h : fetchable s.pc) : s.advance.pc.toNat = s.pc.toNat + 2 := by
  have h' : s.pc.toNat + 1 < 4096 := h
  have h2 : (2 : Word).toNat = 2 := rfl
  rw [State.advance_pc, BitVec.toNat_add, h2]
  omega

end Sys2Proof.Machine
end

