-- ==== Sys2Proof/Tests/Slice0.lean ====
section
/-! SUPPORT. Our own tests: expected results are the spec's (30 for the words, 95 for the vectors), and a witness for
the hypotheses of each statement. -/

namespace Sys2Proof.Tests

open Sys2Proof.Machine

/-! ### Helpers -/

/-- The answer is a next state in which `p` holds. -/
def nextWith (r : Result) (p : State → Bool) : Bool :=
  match r with
  | .next t => p t
  | .fault _ => false
  | .refused _ => false

/-- A Running machine with the instruction word `w` at its `pc`, 0x200. -/
def running (w : Nat) : State := State.reset.withFetchWord 16 w

/-- One step of `s` ends in a state in which `p` holds. -/
def steps (s : State) (p : State → Bool) : Bool := nextWith (step s) p

/-- The state after a fault: Crashed with this cause, `pc` as given. -/
def crashedAt (c : FaultCause) (pc : Word) (t : State) : Bool :=
  t.status = .crashed && t.cause = some c && t.pc = pc

/-! ### Well-formedness: an ill-formed term for each check -/

theorem test_wf_refuses_long_jump : (Instr.jp 0x1000).wellFormed = false := by decide
theorem test_wf_refuses_long_call : (Instr.call 0x1000).wellFormed = false := by decide
theorem test_wf_refuses_long_index : (Instr.loadI 0xFFFF).wellFormed = false := by decide
theorem test_wf_refuses_long_jump_offset : (Instr.jpV0 0x1000).wellFormed = false := by decide
theorem test_wf_refuses_16_rows : (Instr.draw 0 0 16).wellFormed = false := by decide
theorem test_wf_accepts_the_last_values :
    (Instr.jp 0xFFF).wellFormed = true ∧ (Instr.draw 15 15 15).wellFormed = true := by decide

/-! ### Decoding: one word for every constructor, written out from R72 and R76 -/

theorem test_decode_cls : decode 0x00E0 = .ok .cls := by decide
theorem test_decode_ret : decode 0x00EE = .ok .ret := by decide
theorem test_decode_jp : decode 0x1ABC = .ok (.jp 0xABC) := by decide
theorem test_decode_call : decode 0x220A = .ok (.call 0x20A) := by decide
theorem test_decode_skipEqImm : decode 0x3100 = .ok (.skipEqImm 1 0) := by decide
theorem test_decode_skipNeImm : decode 0x4A05 = .ok (.skipNeImm 10 5) := by decide
theorem test_decode_skipEqReg : decode 0x5120 = .ok (.skipEqReg 1 2) := by decide
theorem test_decode_loadImm : decode 0x6105 = .ok (.loadImm 1 5) := by decide
theorem test_decode_addImm : decode 0x71FF = .ok (.addImm 1 0xFF) := by decide
theorem test_decode_copy : decode 0x8120 = .ok (.copy 1 2) := by decide
theorem test_decode_orReg : decode 0x8121 = .ok (.orReg 1 2) := by decide
theorem test_decode_andReg : decode 0x8122 = .ok (.andReg 1 2) := by decide
theorem test_decode_xorReg : decode 0x8123 = .ok (.xorReg 1 2) := by decide
theorem test_decode_addReg : decode 0x8014 = .ok (.addReg 0 1) := by decide
theorem test_decode_subReg : decode 0x8125 = .ok (.subReg 1 2) := by decide
theorem test_decode_shr : decode 0x81A6 = .ok (.shr 1 10) := by decide
theorem test_decode_subnReg : decode 0x8127 = .ok (.subnReg 1 2) := by decide
theorem test_decode_shl : decode 0x81AE = .ok (.shl 1 10) := by decide
theorem test_decode_skipNeReg : decode 0x9AB0 = .ok (.skipNeReg 10 11) := by decide
theorem test_decode_loadI : decode 0xA200 = .ok (.loadI 0x200) := by decide
theorem test_decode_jpV0 : decode 0xB500 = .ok (.jpV0 0x500) := by decide
theorem test_decode_rnd : decode 0xC30F = .ok (.rnd 3 0x0F) := by decide
theorem test_decode_draw : decode 0xDAB2 = .ok (.draw 10 11 2) := by decide
theorem test_decode_skipKey : decode 0xE19E = .ok (.skipKey 1) := by decide
theorem test_decode_skipNoKey : decode 0xE1A1 = .ok (.skipNoKey 1) := by decide
theorem test_decode_readDelay : decode 0xF407 = .ok (.readDelay 4) := by decide
theorem test_decode_waitKey : decode 0xF30A = .ok (.waitKey 3) := by decide
theorem test_decode_setDelay : decode 0xF315 = .ok (.setDelay 3) := by decide
theorem test_decode_setSound : decode 0xF518 = .ok (.setSound 5) := by decide
theorem test_decode_addI : decode 0xF11E = .ok (.addI 1) := by decide
theorem test_decode_glyph : decode 0xF029 = .ok (.glyph 0) := by decide
theorem test_decode_storeBcd : decode 0xF033 = .ok (.storeBcd 0) := by decide
theorem test_decode_storeRegs : decode 0xF255 = .ok (.storeRegs 2) := by decide
theorem test_decode_loadRegs : decode 0xFF65 = .ok (.loadRegs 15) := by decide

/-- TD1 to TD7: the refused words of families 0, 5 and 9. -/
theorem test_decode_refuses_fixed_digits :
    decode 0x00E1 = .error .unknownFamily0 ∧ decode 0x01E0 = .error .unknownFamily0 ∧
    decode 0x0FEE = .error .unknownFamily0 ∧ decode 0x5121 = .error .unknownFamily5 ∧
    decode 0x9ABF = .error .unknownFamily9 := by decide

/-- TD8 to TD16: the refused words of families 8, E and F. -/
theorem test_decode_refuses_sub_opcodes :
    decode 0x8128 = .error .unknownFamily8 ∧ decode 0x812D = .error .unknownFamily8 ∧
    decode 0x812F = .error .unknownFamily8 ∧ decode 0xE19F = .error .unknownFamilyE ∧
    decode 0xE1A0 = .error .unknownFamilyE ∧ decode 0xF100 = .error .unknownFamilyF ∧
    decode 0xF156 = .error .unknownFamilyF ∧ decode 0xF11F = .error .unknownFamilyF := by decide

/-- R70: two bytes, high byte first, and what follows is left over; one byte is no instruction. -/
theorem test_decode_bytes :
    decodeBytes [0x61, 0x05, 0x12] = .ok (.loadImm 1 5, [0x12]) ∧ decodeBytes [0x61] = .error .tooShort := by decide

theorem test_decodeTableWord : decodeTableWord 16 0x6105 = some (.loadImm 1 5) ∧ decodeTableWord 16 0 = none := by decide

/-! ### Fetch and dispatch (95 §2.1) -/

/-- S10, TF1. -/
theorem test_step_6105 : steps (running 0x6105) (fun t => t.reg 1 = 5 && t.pc = 0x202) = true := by decide

/-- TF2: an odd `pc` is legal. -/
theorem test_step_odd_pc :
    steps (({ State.reset with pc := 0x201 } : State).withFetchWord 16 0x1234) (fun t => t.pc = 0x234) = true := by decide

/-- TF3: the last fetchable address. -/
theorem test_step_last_address :
    steps (({ State.reset with pc := 0xFFE } : State).withFetchWord 16 0x6001)
      (fun t => t.reg 0 = 1 && t.pc = 0x1000 && t.status = .running) = true := by decide

/-- TF5. -/
theorem test_step_fetch_out_of_bounds :
    steps { running 0x6105 with pc := 0xFFF } (crashedAt .fetchOutOfBounds 0xFFF) = true := by decide

/-- TF6. -/
theorem test_step_unknown_opcode : steps (running 0x0000) (crashedAt .unknownOpcode 0x202) = true := by decide

/-- R90: from reset, with nothing scheduled, the dispatcher has no step. -/
theorem test_step_uninitialized : step State.reset = .fault .notRunning := by rfl

/-! ### Control transfer (95 §2.3) -/

theorem test_jp : steps (running 0x1ABC) (fun t => t.pc = 0xABC) = true := by decide

/-- TC5. -/
theorem test_call_last_entry :
    steps { running 0x2400 with sp := 15 } (fun t => t.stack[15] = 0x202 && t.sp = 16 && t.pc = 0x400) = true := by decide

/-- TC6. -/
theorem test_call_overflow : steps { running 0x2400 with sp := 16 } (crashedAt .stackOverflow 0x202) = true := by decide

/-- TC8. -/
theorem test_ret :
    nextWith (exec .ret (State.reset.push 0 0x206)) (fun t => t.sp = 0 && t.pc = 0x206 && t.stack[0] = 0x206) = true := by
  decide

/-- TC9. -/
theorem test_ret_underflow : steps (running 0x00EE) (crashedAt .stackUnderflow 0x202) = true := by decide

/-- TC10, TC11. -/
theorem test_skipEqImm :
    steps (running 0x3100) (fun t => t.pc = 0x204) = true ∧
    steps ((running 0x3100).setReg 1 4) (fun t => t.pc = 0x202) = true := by decide

/-- TC12, TC13. -/
theorem test_skipNeImm :
    steps ((running 0x4A05).setReg 10 5) (fun t => t.pc = 0x202) = true ∧
    steps ((running 0x4A05).setReg 10 6) (fun t => t.pc = 0x204) = true := by decide

/-- TC15, TC16. -/
theorem test_skipEqReg :
    steps (((running 0x5120).setReg 1 7).setReg 2 8) (fun t => t.pc = 0x202) = true ∧
    steps (running 0x5330) (fun t => t.pc = 0x204) = true := by decide

/-- TC17, TC18. -/
theorem test_skipNeReg :
    steps (((running 0x9120).setReg 1 7).setReg 2 8) (fun t => t.pc = 0x204) = true ∧
    steps (running 0x9330) (fun t => t.pc = 0x202) = true := by decide

/-- TC20, TC23. -/
theorem test_jpV0 :
    steps ((running 0xBFFF).setReg 0 0xFF) (fun t => t.pc = 0x10FE) = true ∧
    steps ((running 0xB500).setReg 5 2) (fun t => t.pc = 0x500) = true := by decide

/-! ### Load, arithmetic, logic, random (95 §2.4) -/

/-- TA2. -/
theorem test_loadImm_vf : steps (running 0x6FAB) (fun t => t.reg 15 = 0xAB) = true := by decide

/-- TA4. -/
theorem test_addImm_wraps :
    steps ((running 0x7001).setReg 0 0xFF) (fun t => t.reg 0 = 0 && t.reg 15 = 0) = true := by decide

/-- TA7. -/
theorem test_copy :
    steps (((running 0x8120).setReg 2 0x3C).setReg 15 1) (fun t => t.reg 1 = 0x3C && t.reg 15 = 1) = true := by decide

/-- TA8, TA9, TA10. -/
theorem test_logic :
    steps (((running 0x8121).setReg 1 0xF0).setReg 2 0x0F) (fun t => t.reg 1 = 0xFF) = true ∧
    steps (((running 0x8122).setReg 1 0xF3).setReg 2 0x3F) (fun t => t.reg 1 = 0x33) = true ∧
    steps (((running 0x8123).setReg 1 0xFF).setReg 2 0x0F) (fun t => t.reg 1 = 0xF0) = true := by decide

/-- TA12, TA19. -/
theorem test_addReg :
    steps (((running 0x8014).setReg 0 0xC8).setReg 1 0x64) (fun t => t.reg 0 = 0x2C && t.reg 15 = 1) = true ∧
    steps (((running 0x81F4).setReg 1 0x0A).setReg 15 0xFA) (fun t => t.reg 1 = 4 && t.reg 15 = 1) = true := by decide

/-- TA16, TA20. -/
theorem test_addReg_edge :
    steps (((running 0x8014).setReg 0 0x80).setReg 1 0x7F) (fun t => t.reg 0 = 0xFF && t.reg 15 = 0) = true ∧
    steps (((running 0x8F14).setReg 1 0x64).setReg 15 0xC8) (fun t => t.reg 15 = 1) = true := by decide

/-- TA22, TA24. -/
theorem test_subReg :
    steps (((running 0x8125).setReg 1 5).setReg 2 7) (fun t => t.reg 1 = 0xFE && t.reg 15 = 0) = true ∧
    steps (((running 0x8125).setReg 1 5).setReg 2 5) (fun t => t.reg 1 = 0 && t.reg 15 = 1) = true := by decide

/-- TA28, TA30. -/
theorem test_subReg_vf :
    steps (((running 0x81F5).setReg 1 0x10).setReg 15 1) (fun t => t.reg 1 = 0x0F && t.reg 15 = 1) = true ∧
    steps ((running 0x8FF5).setReg 15 0x77) (fun t => t.reg 15 = 1) = true := by decide

/-- TA35, TA36. -/
theorem test_shr :
    steps ((running 0x8106).setReg 1 0xFF) (fun t => t.reg 1 = 0x7F && t.reg 15 = 1) = true ∧
    steps (((running 0x81A6).setReg 1 4).setReg 10 0xFF) (fun t => t.reg 1 = 2 && t.reg 15 = 0 && t.reg 10 = 0xFF) = true := by
  decide

/-- TA39, TA40. -/
theorem test_subnReg :
    steps (((running 0x8127).setReg 1 5).setReg 2 7) (fun t => t.reg 1 = 2 && t.reg 15 = 1) = true ∧
    steps (((running 0x8127).setReg 1 7).setReg 2 5) (fun t => t.reg 1 = 0xFE && t.reg 15 = 0) = true := by decide

/-- TA43, TA49. -/
theorem test_shl :
    steps ((running 0x810E).setReg 1 0x81) (fun t => t.reg 1 = 2 && t.reg 15 = 1) = true ∧
    steps ((running 0x8F0E).setReg 15 0x80) (fun t => t.reg 15 = 1) = true := by decide

/-- TA52: whatever is drawn, and the draw is counted. -/
theorem test_rnd_zero_mask (s : State) :
    ∃ t, exec (.rnd 3 0) s = .next t ∧ t.reg 3 = 0 ∧ t.draws = s.draws + 1 :=
  ⟨_, rfl, by simp [State.reg, State.setReg], rfl⟩

/-! ### Index and memory (95 §2.5) -/

/-- TM1. -/
theorem test_loadI : steps { running 0xA200 with i := 0x1234 } (fun t => t.i = 0x200) = true := by decide

/-- TM3, TM4. -/
theorem test_addI :
    steps ({ running 0xF11E with i := 0xFFE }.setReg 1 5) (fun t => t.i = 0x1003 && t.reg 15 = 0) = true ∧
    steps ({ running 0xF11E with i := 0xFFFF }.setReg 1 1) (fun t => t.i = 0 && t.reg 15 = 0) = true := by decide

/-- TM8. -/
theorem test_glyph : steps ((running 0xF029).setReg 0 0x1A) (fun t => t.i = 50) = true := by decide

/-- TM9. -/
theorem test_storeBcd :
    steps ({ running 0xF033 with i := 0x300 }.setReg 0 0xFE)
      (fun t => t.bytes 0x300 3 = [2, 5, 4] && t.i = 0x300) = true := by decide

/-- TM14, TM15. -/
theorem test_storeBcd_edge :
    steps ({ running 0xF033 with i := 0xFFD }.setReg 0 0x7B) (fun t => t.bytes 0xFFD 3 = [1, 2, 3]) = true ∧
    steps ({ running 0xF033 with i := 0xFFE }.setReg 0 0x7B)
      (fun t => crashedAt .memoryOutOfBounds 0x202 t && t.bytes 0xFFE 2 = [0, 0]) = true := by decide

/-- TM16. -/
theorem test_storeRegs :
    steps ((({ running 0xF255 with i := 0x400 }.setReg 0 0x11).setReg 1 0x22).setReg 2 0x33)
      (fun t => t.bytes 0x400 4 = [0x11, 0x22, 0x33, 0] && t.i = 0x400) = true := by decide

/-- TM20: the font is writable. -/
theorem test_storeRegs_font :
    steps { running 0xF055 with i := 2 } (fun t => t.bytes 1 3 = [0x90, 0, 0x90]) = true := by decide

/-- TM21 with the first glyph as the source. -/
theorem test_loadRegs :
    steps ((running 0xF265).setReg 3 0xEE)
      (fun t => t.reg 0 = 0xF0 && t.reg 1 = 0x90 && t.reg 2 = 0x90 && t.reg 3 = 0xEE) = true := by decide

/-- TM23. -/
theorem test_loadRegs_out_of_bounds :
    steps ({ running 0xF165 with i := 0xFFF }.setReg 0 7)
      (fun t => crashedAt .memoryOutOfBounds 0x202 t && t.reg 0 = 7) = true := by decide

/-! ### Display (95 §2.6) -/

/-- TG1. -/
theorem test_cls :
    steps ((running 0x00E0).setFb (Framebuffer.blank.toggle 5 5))
      (fun t => t.fb = Framebuffer.blank && t.changed) = true := by decide

/-- TG5: a 0 bit over an on pixel is no collision. The sprite byte 0x40 stands at 0x300. -/
theorem test_draw_no_collision :
    nextWith (exec (.draw 0 0 1)
      (({ State.reset with i := 0x300 }.setMem [(0x300, 0x40)]).setFb (Framebuffer.blank.toggle 0 0)))
      (fun t => t.fb = (Framebuffer.blank.toggle 0 0).toggle 1 0 && t.reg 15 = 0 && t.changed) = true := by decide

/-- TG4, and TG6's clipping: the sprite byte 0xFF at columns 60 to 67 over the pixel (63,0). -/
theorem test_draw_collides_and_clips :
    nextWith (exec (.draw 0 1 1)
      ((({ State.reset with i := 0x300 }.setMem [(0x300, 0xFF)]).setReg 0 60).setFb (Framebuffer.blank.toggle 63 0)))
      (fun t => t.fb = ((Framebuffer.blank.toggle 60 0).toggle 61 0).toggle 62 0 && t.reg 15 = 1) = true := by decide

/-! ### Keys, timers and host events (95 §2.7, §2.8) -/

/-- TK3, TK4. -/
theorem test_skip_keys :
    steps (((running 0xE19E).setReg 1 0x37).setKeyBit 7 true) (fun t => t.pc = 0x204) = true ∧
    steps (((running 0xE1A1).setReg 1 4).setKeyBit 4 true) (fun t => t.pc = 0x202) = true := by decide

/-- TK6, TK7. -/
theorem test_waitKey :
    steps ((running 0xF30A).setReg 3 0x99) (fun t => t.pc = 0x200 && t.reg 3 = 0x99) = true ∧
    steps (((running 0xF30A).setKeyBit 7 true).setKeyBit 2 true) (fun t => t.pc = 0x202 && t.reg 3 = 2) = true := by decide

/-- TK11, TK12, TK13. -/
theorem test_timer_instructions :
    steps ((running 0xF407).setDt 0x3B) (fun t => t.reg 4 = 0x3B) = true ∧
    steps ((running 0xF315).setReg 3 2) (fun t => t.dt = 2) = true ∧
    steps ((running 0xF518).setReg 5 0x10) (fun t => t.st = 0x10) = true := by decide

/-- TK16, TK15, as scheduled events. -/
theorem test_tick :
    steps { State.reset with dt := 1, st := 0xFF, schedule := [.tick] }
      (fun t => t.dt = 0 && t.st = 0xFE && t.schedule = []) = true ∧
    steps { State.reset with schedule := [.tick] } (fun t => t.dt = 0 && t.st = 0) = true := by decide

/-- TH5, TH7, TH8. -/
theorem test_stop_and_second_load :
    stop { State.reset with status := .running } = { State.reset with status := .stopped } ∧
    stop (State.reset.raise .unknownOpcode) = State.reset.raise .unknownOpcode ∧
    load [0x12] { State.reset with status := .running } = { State.reset with status := .running } := by decide

/-- TH3: 3585 bytes are too many. -/
theorem test_load_too_large : loadRom (List.replicate 3585 0x5A) State.reset = .error .tooLarge := by
  have h : Config.romMax < (List.replicate 3585 (0x5A : Byte)).length := by
    rw [List.length_replicate]
    decide
  rw [loadRom, if_neg (by decide), if_pos h]

/-- TH1 and R54's table: glyph 0 and glyph F of the default font, and zero after it. -/
theorem test_reset_font :
    State.reset.bytes 0 5 = [0xF0, 0x90, 0x90, 0x90, 0xF0] ∧ State.reset.bytes 75 7 = [0xF0, 0x80, 0xF0, 0x80, 0x80, 0, 0] := by
  decide

/-- R5, R37: `FONT` is an argument. With another font, memory after `reset` holds that font, and the second `reset` gives
it back after a store over it. -/
theorem test_other_font :
    (State.resetWith (Vector.replicate 80 0xAA)).bytes 78 3 = [0xAA, 0xAA, 0] ∧
    nextWith (exec (.storeRegs 0) (State.resetWith (Vector.replicate 80 0xAA)))
      (fun t => t.byte 0 = 0 && (resetEvent t).byte 0 = 0xAA && (resetEvent t).font = t.font) = true := by decide

/-- R171's codes. -/
theorem test_cause_codes :
    causeCode none = 0 ∧ causeCode (some .unknownOpcode) = 1 ∧ causeCode (some .memoryOutOfBounds) = 5 := by decide

/-- R212: `IPF` steps, then one tick; `IPF = 0` is a configuration error. -/
theorem test_reference_frame :
    referenceFrame 2 = some [.step, .step, .tick] ∧ referenceFrame 0 = none := by decide

/-! ### Witnesses: states and operands that meet the hypotheses of the statements -/

/-- DecodeEncode, BootRunsFirstInstruction: well-formed at the last values, and the longest stream. (Boot's clause on the
machine's own step: `witness_Boot_schedule`.) -/
theorem witness_DecodeEncode_Boot :
    (Instr.call 0xFFF).WellFormed ∧ (Instr.draw 15 15 15).WellFormed ∧ (List.replicate 3582 (0 : Byte)).length + 2 ≤ 3584 := by
  refine ⟨by decide, by decide, ?_⟩
  rw [List.length_replicate]

/-- BootRunsFirstInstruction: a reset and a load that leave nothing scheduled. -/
theorem witness_Boot_schedule :
    (load (encodeBytes .cls) (resetEvent (running 0))).schedule = [] ∧
    (load (encodeBytes .cls) (resetEvent (running 0))).status = .running := by decide

theorem witness_EncodeDecode : decode 0xDFFF = .ok (.draw 15 15 15) := by decide

theorem witness_StepRunsDecoded :
    (running 0x6105).status = .running ∧ (running 0x6105).Fetches (.loadImm 1 5) ∧ (running 0x6105).schedule = [] ∧
    ((running 0x6105).setSchedule [.step, .tick]).Fetches (.loadImm 1 5) := by
  refine ⟨rfl, ⟨by decide, by decide⟩, rfl, ⟨by decide, by decide⟩⟩

theorem witness_StepTakesScheduledEvent : (State.reset.setSchedule [.tick, .step]).schedule = .tick :: [.step] := rfl

/-- UnknownOpcodeFaults, with nothing scheduled and with the step scheduled. -/
theorem witness_UnknownOpcodeFaults :
    (running 0).status = .running ∧ (running 0).schedule = [] ∧ fetchable (running 0).pc ∧
    decode (running 0).fetchedWord = .error .unknownFamily0 ∧
    ((running 0).setSchedule [.step, .tick]).schedule = .step :: [.tick] ∧
    decode ((running 0).setSchedule [.step, .tick]).fetchedWord = .error .unknownFamily0 := by decide

/-- FetchOutOfBoundsFaults at the first address beyond, with nothing scheduled and with the step scheduled. -/
theorem witness_FetchOutOfBoundsFaults :
    ({ running 0 with pc := 0xFFF } : State).status = .running ∧ 4094 < ({ running 0 with pc := 0xFFF } : State).pc.toNat ∧
    ({ running 0 with pc := 0xFFF } : State).schedule = [] ∧
    ({ running 0 with pc := 0xFFF, schedule := [.step] } : State).schedule = .step :: [] := by
  decide

theorem witness_NoStepOutsideRunning : State.reset.status ≠ .running ∧ State.reset.schedule = [] := by decide

/-- StoreSeenByNextFetch: `Fx55` over both bytes at the end of memory, `Fx33` over the second byte alone from below, and
stores that miss the two bytes. -/
theorem witness_StoreSeenByNextFetch :
    nextWith (exec (.storeRegs 1) ((({ State.reset with i := 4094, pc := 4094 }).setReg 0 0x61).setReg 1 5))
      (fun t => t.fetchedWord = 0x6105) = true ∧
    nextWith (exec (.storeBcd 1) ({ State.reset with i := 0x203, pc := 0x202 }.setReg 1 0xFE))
      (fun t => t.fetchedWord = 0x0002) = true ∧
    nextWith (exec (.storeBcd 1) ({ State.reset with i := 0x200, pc := 0x202 }.setReg 1 0xFE))
      (fun t => t.fetchedWord = 0x0400) = true ∧
    nextWith (exec (.storeBcd 1) ({ State.reset with i := 4093, pc := 0x202 }.setReg 1 0xFE))
      (fun t => t.fetchedWord = 0) = true := by decide

/-- StoreRegsResult, LoadRegsResult, LoadRegsUndoesStoreRegs at the end of memory. -/
theorem witness_stores : ({ State.reset with i := 4080 } : State).i.toNat + (15 : Reg).val + 1 ≤ 4096 := by decide

theorem witness_StoreBcdResult : ({ State.reset with i := 4093 } : State).i.toNat + 3 ≤ 4096 := by decide

/-- MemoryOutOfBoundsFaults: each clause at the first address beyond. -/
theorem witness_MemoryOutOfBoundsFaults :
    4096 < ({ State.reset with i := 4094 } : State).i.toNat + 3 ∧
    4096 < ({ State.reset with i := 4081 } : State).i.toNat + (15 : Reg).val + 1 ∧
    0 < 1 ∧ 4096 < ({ State.reset with i := 4096 } : State).i.toNat + 1 := by decide

theorem witness_JumpOffsetResult : (Instr.jpV0 0xFFF).WellFormed := by decide

/-- CallResult, ReturnUndoesCall, ReturnResult at both ends of the stack. -/
theorem witness_stack_room :
    State.reset.sp.toNat = (0 : Fin 16).val ∧ ({ State.reset with sp := 15 } : State).sp.toNat = (15 : Fin 16).val ∧
    ({ State.reset with sp := 1 } : State).sp.toNat = (0 : Fin 16).val + 1 ∧
    ({ State.reset with sp := 16 } : State).sp.toNat = (15 : Fin 16).val + 1 := by decide

/-- StackFaults: each clause at its boundary. -/
theorem witness_StackFaults :
    ({ State.reset with sp := 16 } : State).sp = 16 ∧ State.reset.sp = 0 ∧
    16 < ({ State.reset with sp := 17 } : State).sp.toNat := by decide

theorem witness_MemoryCanonical : Memory.wf defaultFont [(0x200, 0x61), (0xFFF, 0x05)] := by decide

/-- DrawResult: no rows wherever `I` is, and the last base for two rows. -/
theorem witness_DrawResult :
    (0 = 0 ∨ ({ State.reset with i := 0xFFFF } : State).i.toNat + 0 ≤ 4096) ∧
    (2 = 0 ∨ ({ State.reset with i := 4094 } : State).i.toNat + 2 ≤ 4096) := by decide

/-- DrawTwiceRestores: the top row of glyph 0 at the origin; the second state is the one the first draw leaves. -/
theorem witness_DrawTwiceRestores :
    (1 = 0 ∨ State.reset.i.toNat + 1 ≤ 4096) ∧
    nextWith (exec (.draw 0 1 1) State.reset)
      (fun t => t.reg 0 = State.reset.reg 0 && t.reg 1 = State.reset.reg 1 && t.i = State.reset.i &&
        t.mem = State.reset.mem && t.reg vf = 0 && t.fb.pixel 0 0) = true := by decide

theorem witness_SkipKeyResult : (7 : Key).val = ((State.reset.setReg 1 0x37).reg 1).toNat % 16 := by decide

/-- WaitKeyResult: the last key alone, and none. -/
theorem witness_WaitKeyResult :
    (State.reset.setKeyBit 15 true).key 15 = true ∧
    (∀ j : Key, j < 15 → (State.reset.setKeyBit 15 true).key j = false) ∧ (∀ k : Key, State.reset.key k = false) := by decide

theorem witness_WaitKeySpins :
    (running 0xF30A).status = .running ∧ (running 0xF30A).schedule = [] ∧ (running 0xF30A).Fetches (.waitKey 3) ∧
    (∀ k : Key, (running 0xF30A).key k = false) ∧
    ((running 0xF30A).setSchedule [.step]).schedule = .step :: [] ∧
    ((running 0xF30A).setSchedule [.step]).Fetches (.waitKey 3) := by
  refine ⟨rfl, rfl, ⟨by decide, by decide⟩, by decide, rfl, ⟨by decide, by decide⟩⟩

theorem witness_HostWritesResult : (running 0).status = .running ∧ State.reset.status ≠ .running := by decide

/-- LoadResult: the longest stream, one byte more, and a second load. -/
theorem witness_LoadResult :
    State.reset.status = .uninitialized ∧ (List.replicate 3584 (0 : Byte)).length ≤ 3584 ∧
    3584 < (List.replicate 3585 (0 : Byte)).length ∧ (running 0).status ≠ .uninitialized := by
  refine ⟨rfl, ?_, ?_, by decide⟩
  · rw [List.length_replicate]
  · rw [List.length_replicate]
    decide

/-- ExecKeepsHostState, with the changed flag set; ExecCompletesOrFaults and OnlyFlowMovesPc likewise. -/
theorem witness_exec_next :
    nextWith (exec (.jp 0x400) (State.reset.setChanged true)) (fun t => t.changed && t.pc ≠ State.reset.pc) = true := by decide

theorem witness_OnlyIndexInstructionsWriteI :
    nextWith (exec (.glyph 0) (State.reset.setReg 0 15)) (fun t => t.i ≠ State.reset.i) = true := by decide

theorem witness_OnlyStoresWriteMemory :
    nextWith (exec (.storeRegs 0) State.reset) (fun t => t.byte 0 ≠ State.reset.byte 0) = true := by decide

theorem witness_OnlyCallReturnMoveStack :
    nextWith (exec (.call 0x400) State.reset)
      (fun t => t.sp ≠ State.reset.sp && t.stack[0] ≠ State.reset.stack[0]) = true := by decide

theorem witness_OnlyTheirWritersWriteTimersPixelsDraws :
    nextWith (exec (.setDelay 0) (State.reset.setReg 0 1)) (fun t => t.dt ≠ State.reset.dt) = true ∧
    nextWith (exec (.setSound 0) (State.reset.setReg 0 1)) (fun t => t.st ≠ State.reset.st) = true ∧
    nextWith (exec (.draw 0 0 1) State.reset) (fun t => t.fb.pixel 0 0 ≠ State.reset.fb.pixel 0 0) = true ∧
    nextWith (exec (.rnd 0 0) State.reset) (fun t => t.draws ≠ State.reset.draws) = true := by decide

theorem witness_CrashedStoppedAreTerminal :
    (State.reset.raise .unknownOpcode).status = .crashed ∧ (State.reset.setStatus .stopped).status = .stopped ∧
    Event.step ≠ Event.reset := by decide

/-- StepAlwaysCompletes, its scheduled clause: a Crashed state that meets the invariant, with a step and a tick scheduled. -/
theorem witness_StepAlwaysCompletes :
    ({ (running 0).raise .unknownOpcode with schedule := [.step, .tick] } : State).Inv ∧
    ({ (running 0).raise .unknownOpcode with schedule := [.step, .tick] } : State).schedule ≠ [] := by decide

/-- FontIsParameter: an instruction, an event and a step that answer a next state. -/
theorem witness_FontIsParameter :
    nextWith (exec .cls State.reset) (fun _ => true) = true ∧ nextWith (applyEvent .reset (running 0)) (fun _ => true) = true ∧
    steps (running 0x00E0) (fun _ => true) = true := by decide

/-- StepAlwaysCompletes, StepKeepsInvariant: a Running state with a full stack, at the last address a jump can reach. -/
theorem witness_invariant :
    ({ running 0x6105 with sp := 16, stack := Vector.replicate 16 0x1000, pc := 0x10FE } : State).Inv ∧
    nextWith (step { running 0x6105 with sp := 16, stack := Vector.replicate 16 0x1000, pc := 0x10FE })
      (fun t => t.status = .crashed) = true := by decide

end Sys2Proof.Tests
end

section
/-! The parameter `FONT` and the schedule: nothing writes the one (R5, R37), and the oldest event of the other is the
machine's next (R11). -/

namespace Sys2Proof.Machine

/-! ### The font under each event -/

/-- No instruction has the font among its writes. -/
theorem font_notMem_writes (i : Instr) : Part.font ∉ i.writes := by
  cases i <;> simp [Instr.writes, allPixels]

theorem exec_font {i : Instr} {s t : State} (h : exec i s = .next t) : t.font = s.font := by
  by_contra hd
  exact font_notMem_writes i (mem_writes_of_changed (p := .font) h (by decide) (by decide) hd)

theorem dispatcherStep_font {s t : State} (h : dispatcherStep s = .next t) : t.font = s.font := by
  rcases dispatcherStep_cases s with ⟨i, -, hi⟩ | ⟨-, -, hu⟩ | ⟨-, hb⟩
  · exact (exec_font (hi.symm.trans h)).trans (State.advance_font s)
  · cases hu.symm.trans h
    rfl
  · cases hb.symm.trans h
    rfl

/-- What `load` does: an accepted stream is stored at ROM_BASE and the machine runs, a rejected one changes nothing
(R204). -/
theorem load_eq (bytes : List Byte) (s : State) :
    load bytes s = if s.status = .uninitialized ∧ bytes.length ≤ Config.romMax
      then (s.store Config.romBase bytes).setStatus .running else s := by
  unfold load loadRom
  by_cases hs : s.status = .uninitialized
  · by_cases hl : bytes.length ≤ Config.romMax
    · simp [hs, hl, not_lt.mpr hl]
    · simp [hs, hl, not_le.mp hl]
  · simp [hs]

@[simp] theorem load_font (bytes : List Byte) (s : State) : (load bytes s).font = s.font := by
  rw [load_eq]
  split <;> rfl

@[simp] theorem stop_font (s : State) : (stop s).font = s.font := by
  unfold stop
  split <;> rfl

@[simp] theorem tick_font (s : State) : (tick s).font = s.font := rfl

theorem applyEvent_font {e : Event} {s t : State} (h : applyEvent e s = .next t) : t.font = s.font := by
  cases e with
  | step =>
    rw [applyEvent] at h
    split at h
    · exact dispatcherStep_font h
    · cases h
      rfl
  | reset => cases h; exact resetEvent_font s
  | load bytes => cases h; exact load_font bytes s
  | tick => cases h; exact tick_font s
  | setKey k p => cases h; exact State.setKeyBit_font s k p
  | clearChanged => cases h; exact State.setChanged_font s false
  | stop => cases h; exact stop_font s

theorem step_font {s t : State} (h : step s = .next t) : t.font = s.font := by
  rcases step_cases s with ⟨e, rest, -, he⟩ | ⟨-, -, hd⟩ | ⟨-, -, hf⟩
  · exact (applyEvent_font (he.symm.trans h)).trans (State.setSchedule_font s rest)
  · exact dispatcherStep_font (hd.symm.trans h)
  · cases hf.symm.trans h

/-! ### The statements -/

/-- Settles O60: an instruction's frame does not hold the font, and every event and step is an instruction's rule, a
fault or an update that keeps it. -/
theorem fontIsParameter : Obligations.FontIsParameter :=
  ⟨fun _ _ _ => exec_font, fun _ _ _ => applyEvent_font, fun _ _ => step_font⟩

/-- Settles O6, by the first branch of `nextEvent`. -/
theorem stepTakesScheduledEvent : Obligations.StepTakesScheduledEvent := by
  intro s e rest h
  simp only [step, nextEvent, h]

end Sys2Proof.Machine
end

section
/-! Which instructions write a cell (R21 to R39): the frame of `exec`, read from the cell's side. -/

namespace Sys2Proof.Machine

/-- A cell, other than `status` and `cause`, that is not among an instruction's writes keeps its value. -/
theorem same_of_notMem_writes {i : Instr} {s t : State} (h : exec i s = .next t) {p : Part} (h1 : p ≠ .status)
    (h2 : p ≠ .cause) (hp : p ∉ i.writes) : p.Same s t := by
  by_contra hd
  exact hp (mem_writes_of_changed h h1 h2 hd)

/-! ### The writers of each cell: the table `Instr.writes`, read by column -/

theorem key_notMem_writes (i : Instr) (k : Key) : Part.key k ∉ i.writes := by
  cases i <;> simp [Instr.writes, allPixels]

theorem schedule_notMem_writes (i : Instr) : Part.schedule ∉ i.writes := by
  cases i <;> simp [Instr.writes, allPixels]

theorem status_notMem_writes (i : Instr) : Part.status ∉ i.writes := by
  cases i <;> simp [Instr.writes, allPixels]

theorem cause_notMem_writes (i : Instr) : Part.cause ∉ i.writes := by
  cases i <;> simp [Instr.writes, allPixels]

theorem changed_mem_writes {i : Instr} : Part.changed ∈ i.writes ↔ i = .cls ∨ ∃ x y n, i = .draw x y n := by
  cases i <;> simp [Instr.writes, allPixels]

theorem pixel_mem_writes {i : Instr} {x y : Nat} :
    Part.pixel x y ∈ i.writes ↔ i = .cls ∨ ∃ x y n, i = .draw x y n := by
  cases i <;> simp [Instr.writes, allPixels]

theorem index_mem_writes {i : Instr} :
    Part.index ∈ i.writes ↔ (∃ addr, i = .loadI addr) ∨ (∃ x, i = .addI x) ∨ ∃ x, i = .glyph x := by
  cases i <;> simp [Instr.writes, allPixels]

theorem sp_mem_writes {i : Instr} : Part.sp ∈ i.writes ↔ i = .ret ∨ ∃ addr, i = .call addr := by
  cases i <;> simp [Instr.writes, allPixels]

theorem stackEntry_mem_writes {i : Instr} {k : Fin 16} : Part.stackEntry k ∈ i.writes ↔ ∃ addr, i = .call addr := by
  cases i <;> simp [Instr.writes, allPixels]

theorem dt_mem_writes {i : Instr} : Part.dt ∈ i.writes ↔ ∃ x, i = .setDelay x := by
  cases i <;> simp [Instr.writes, allPixels]

theorem st_mem_writes {i : Instr} : Part.st ∈ i.writes ↔ ∃ x, i = .setSound x := by
  cases i <;> simp [Instr.writes, allPixels]

theorem draws_mem_writes {i : Instr} : Part.draws ∈ i.writes ↔ ∃ x kk, i = .rnd x kk := by
  cases i <;> simp [Instr.writes, allPixels]

theorem pc_mem_writes {i : Instr} :
    Part.pc ∈ i.writes ↔
      i.mnemonic ∈ ["1addr", "2addr", "00EE", "Bxxx", "3xkk", "4xkk", "5xy0", "9xy0", "Ex9E", "ExA1", "Fx0A"] := by
  cases i <;> simp [Instr.writes, Instr.mnemonic, allPixels]

/-! ### What the branching instructions answer -/

/-- `00EE`: StackUnderflow, or a pop of the entry below `sp` (R100). -/
theorem execRet_next {s t : State} (h : execRet s = .next t) :
    t = s.raise .stackUnderflow ∨ ∃ k : Fin 16, s.sp.toNat = k.val + 1 ∧ t = s.popToPc k := by
  unfold execRet at h
  split at h
  · cases h
    exact .inl rfl
  · next h0 =>
    split at h
    · next hk =>
      cases h
      have hne : s.sp.toNat ≠ 0 := fun e => h0 (BitVec.eq_of_toNat_eq e)
      exact .inr ⟨⟨s.sp.toNat - 1, hk⟩, by show _ = s.sp.toNat - 1 + 1; omega, rfl⟩
    · cases h

/-- `2addr`: StackOverflow, or a push at `sp` and the jump (R102). -/
theorem execCall_next {addr : Word} {s t : State} (h : execCall addr s = .next t) :
    t = s.raise .stackOverflow ∨ ∃ k : Fin 16, s.sp.toNat = k.val ∧ t = (s.push k s.pc).setPc addr := by
  unfold execCall at h
  split at h
  · cases h
    exact .inl rfl
  · split at h
    · next hk =>
      cases h
      exact .inr ⟨⟨s.sp.toNat, hk⟩, rfl, rfl⟩
    · cases h

/-- `Fx0A`: a key number to `V[x]`, or `pc` back to the instruction (R162). -/
theorem execWaitKey_next {x : Reg} {s t : State} (h : execWaitKey x s = .next t) :
    (∃ b, t = s.setReg x b) ∨ t = s.setPc (s.pc - 2) := by
  unfold execWaitKey at h
  split at h
  · cases h
    exact .inl ⟨_, rfl⟩
  · cases h
    exact .inr rfl

/-- A skip adds 2 to `pc` or nothing, and leaves every other field (R103). -/
theorem skipIf_next {c : Bool} {s t : State} (h : skipIf c s = .next t) : t = s.setPc (s.pc + 2) ∨ t = s := by
  cases c <;> cases h
  · exact .inr rfl
  · exact .inl rfl

/-- A bounded memory instruction: its one update of the state, or MemoryOutOfBounds (R57, R175). -/
theorem withBounds_update_next {len : Nat} {f : State → State} {s t : State}
    (h : withBounds len s (fun s => .next (f s)) = .next t) : t = f s ∨ t = s.raise .memoryOutOfBounds := by
  rcases withBounds_next h with ⟨-, h⟩ | ⟨-, h⟩
  · cases h
    exact .inl rfl
  · exact .inr h

theorem execStoreBcd_next {x : Reg} {s t : State} (h : execStoreBcd x s = .next t) :
    t = s.store s.base (bcdDigits (s.reg x)) ∨ t = s.raise .memoryOutOfBounds :=
  withBounds_update_next (f := fun s => s.store s.base (bcdDigits (s.reg x))) h

theorem execStoreRegs_next {x : Reg} {s t : State} (h : execStoreRegs x s = .next t) :
    t = s.store s.base (s.regsUpTo x) ∨ t = s.raise .memoryOutOfBounds :=
  withBounds_update_next (f := fun s => s.store s.base (s.regsUpTo x)) h

theorem execLoadRegs_next {x : Reg} {s t : State} (h : execLoadRegs x s = .next t) :
    t = s.setRegs (s.loadedRegs x) ∨ t = s.raise .memoryOutOfBounds :=
  withBounds_update_next (f := fun s => s.setRegs (s.loadedRegs x)) h

theorem execDraw_next {x y : Reg} {n : Nat} {s t : State} (h : execDraw x y n s = .next t) :
    t = s.plotted (drawSprite s.fb (s.originX x) (s.originY y) (s.bytes s.base n)) ∨
      t = s.raise .memoryOutOfBounds :=
  withBounds_update_next
    (f := fun s => s.plotted (drawSprite s.fb (s.originX x) (s.originY y) (s.bytes s.base n))) h

/-! ### The changed flag (R32) -/

/-- No instruction clears the changed flag: its two writers set it (R32). -/
theorem exec_changed {i : Instr} {s t : State} (h : exec i s = .next t) :
    t.changed = true ∨ t.changed = s.changed := by
  by_cases hw : Part.changed ∈ i.writes
  · rcases changed_mem_writes.mp hw with rfl | ⟨x, y, n, rfl⟩
    · cases h
      exact .inl rfl
    · obtain rfl | rfl := execDraw_next h
      · exact .inl rfl
      · exact .inr rfl
  · exact .inr (same_of_notMem_writes h (by decide) (by decide) hw)

/-! ### The statements -/

/-- Settles O49: keys and schedule are in no instruction's frame, and the flag's writers set it. -/
theorem execKeepsHostState : Obligations.ExecKeepsHostState := by
  intro i s t h
  refine ⟨fun k => ?_, fun hc => ?_, ?_⟩
  · exact same_of_notMem_writes (p := .key k) h (by simp) (by simp) (key_notMem_writes i k)
  · exact (exec_changed h).elim id fun hk => hk.trans hc
  · exact same_of_notMem_writes (p := .schedule) h (by decide) (by decide) (schedule_notMem_writes i)

/-- Settles O50, by the writers of `I`. -/
theorem onlyIndexInstructionsWriteI : Obligations.OnlyIndexInstructionsWriteI := fun _ _ _ h hd =>
  index_mem_writes.mp (mem_writes_of_changed (p := .index) h (by decide) (by decide) hd)

/-- Settles O52, by the writers of `sp` and of a stack entry. -/
theorem onlyCallReturnMoveStack : Obligations.OnlyCallReturnMoveStack := by
  intro i s t h
  refine ⟨fun hd => ?_, fun ⟨k, hd⟩ => ?_⟩
  · exact sp_mem_writes.mp (mem_writes_of_changed (p := .sp) h (by decide) (by decide) hd)
  · exact stackEntry_mem_writes.mp (mem_writes_of_changed (p := .stackEntry k) h (by simp) (by simp) hd)

/-- Settles O53, by the writers of each timer, of a pixel and of `draws`. -/
theorem onlyTheirWritersWriteTimersPixelsDraws : Obligations.OnlyTheirWritersWriteTimersPixelsDraws := by
  intro i s t h
  refine ⟨fun hd => ?_, fun hd => ?_, fun ⟨x, y, hd⟩ => ?_, fun hd => ?_⟩
  · exact dt_mem_writes.mp (mem_writes_of_changed (p := .dt) h (by decide) (by decide) hd)
  · exact st_mem_writes.mp (mem_writes_of_changed (p := .st) h (by decide) (by decide) hd)
  · exact pixel_mem_writes.mp (mem_writes_of_changed (p := .pixel x y) h (by simp) (by simp) hd)
  · exact draws_mem_writes.mp (mem_writes_of_changed (p := .draws) h (by decide) (by decide) hd)

/-- Settles O54, by the writers of `pc`. -/
theorem onlyFlowMovesPc : Obligations.OnlyFlowMovesPc := fun _ _ _ h hd =>
  pc_mem_writes.mp (mem_writes_of_changed (p := .pc) h (by decide) (by decide) hd)

end Sys2Proof.Machine
end

section
/-! The canonical form of memory (R35, R50): a cell is listed exactly when memory reads there as something other than
its reset contents. -/

namespace Sys2Proof.Machine

/-- What is listed in a memory in canonical form, told from what it reads as. -/
theorem Memory.mem_iff_read {f : Font} {m : Memory} (hm : m.wf f) (c : Host.Cell) :
    c ∈ m ↔ m.read f c.1 = c.2 ∧ c.2 ≠ resetByte f c.1 := by
  induction m with
  | nil =>
    refine ⟨fun h => absurd h List.not_mem_nil, fun ⟨hr, hne⟩ => ?_⟩
    exact absurd hr.symm hne
  | cons d rest ih =>
    obtain ⟨k, b⟩ := d
    obtain ⟨hsorted, hcells⟩ := hm
    obtain ⟨hhead, htail⟩ := List.pairwise_cons.mp hsorted
    have ih := ih ⟨htail, fun c hc => hcells c (List.mem_cons_of_mem _ hc)⟩
    by_cases hk : k = c.1
    · -- The head is the only cell listed at its address.
      have hrest : c ∉ rest := fun hc => absurd (hhead c hc) (by simp [hk])
      have hb : b ≠ resetByte f k := (hcells (k, b) List.mem_cons_self).2
      rw [Memory.read, if_pos hk, List.mem_cons, or_iff_left hrest]
      constructor
      · rintro rfl
        exact ⟨rfl, hb⟩
      · rintro ⟨hc, -⟩
        exact Prod.ext hk.symm hc.symm
    · have hne : c ≠ (k, b) := fun e => hk (by rw [e])
      rw [Memory.read, if_neg hk, List.mem_cons, or_iff_right hne, ih]

/-- Settles O34: two canonical memories that read alike list the same cells, and both list them in order. -/
theorem memoryCanonical : Obligations.MemoryCanonical := by
  intro f m n hm hn hread
  have : Std.Irrefl fun c d : Host.Cell => c.1 < d.1 := ⟨fun c => lt_irrefl c.1⟩
  have : Std.Antisymm fun c d : Host.Cell => c.1 < d.1 := ⟨fun _ _ h k => absurd k h.asymm⟩
  refine hm.1.eq_of_mem_iff hn.1 fun c => ?_
  rw [Memory.mem_iff_read hm, Memory.mem_iff_read hn, hread]

end Sys2Proof.Machine
end

section
/-! A word that decodes gives an instruction that has an encoding: its address fits 12 bits, its row count 4 (R71, R73). -/

namespace Sys2Proof

theorem addrFits_fieldAddr (op : Word) : addrFits (fieldAddr op) := by
  show (fieldAddr op).toNat < 4096
  rw [fieldAddr_toNat]
  omega

theorem rowsFit_fieldN (op : Word) : rowsFit (fieldN op) := by
  show fieldN op < 16
  rw [fieldN_eq]
  omega

variable {op : Word} {i : Instr}

theorem decodeFamily0_wellFormed (h : decodeFamily0 op = .ok i) : i.WellFormed := by
  unfold decodeFamily0 at h
  split at h <;> cases h <;> rfl

theorem decodeFamily5_wellFormed (h : decodeFamily5 op = .ok i) : i.WellFormed := by
  unfold decodeFamily5 at h
  split at h <;> cases h
  rfl

theorem decodeFamily8_wellFormed (h : decodeFamily8 op = .ok i) : i.WellFormed := by
  unfold decodeFamily8 at h
  split at h <;> cases h <;> rfl

theorem decodeFamily9_wellFormed (h : decodeFamily9 op = .ok i) : i.WellFormed := by
  unfold decodeFamily9 at h
  split at h <;> cases h
  rfl

theorem decodeFamilyE_wellFormed (h : decodeFamilyE op = .ok i) : i.WellFormed := by
  unfold decodeFamilyE at h
  split at h <;> cases h <;> rfl

theorem decodeFamilyF_wellFormed (h : decodeFamilyF op = .ok i) : i.WellFormed := by
  unfold decodeFamilyF at h
  split at h <;> cases h <;> rfl

/-- The cases are the arms of `decode`, families 0 to F in order. -/
theorem decode_wellFormed (h : decode op = .ok i) : i.WellFormed := by
  unfold decode at h
  split at h
  case h_1 => exact decodeFamily0_wellFormed h
  case h_6 => exact decodeFamily5_wellFormed h
  case h_9 => exact decodeFamily8_wellFormed h
  case h_10 => exact decodeFamily9_wellFormed h
  case h_15 => exact decodeFamilyE_wellFormed h
  case h_16 => exact decodeFamilyF_wellFormed h
  case h_2 | h_3 | h_11 | h_12 => cases h; exact decide_eq_true (addrFits_fieldAddr op)
  case h_14 => cases h; exact decide_eq_true (rowsFit_fieldN op)
  case h_4 | h_5 | h_7 | h_8 | h_13 => cases h; rfl

end Sys2Proof
end

section
/-! The invariant of R40: reset establishes it and every event keeps it. -/

namespace Sys2Proof.Machine

/-! ### Memory -/

/-- All an instruction can do to memory: nothing, or one store of bytes (R52). -/
theorem exec_mem {i : Instr} {s t : State} (h : exec i s = .next t) :
    t.mem = s.mem ∨ ∃ a l, t.mem = (s.store a l).mem := by
  cases i
  case storeBcd =>
    obtain rfl | rfl := execStoreBcd_next h
    · exact .inr ⟨_, _, rfl⟩
    · exact .inl rfl
  case storeRegs =>
    obtain rfl | rfl := execStoreRegs_next h
    · exact .inr ⟨_, _, rfl⟩
    · exact .inl rfl
  case loadRegs => obtain rfl | rfl := execLoadRegs_next h <;> exact .inl rfl
  case draw => obtain rfl | rfl := execDraw_next h <;> exact .inl rfl
  case ret => obtain rfl | ⟨k, -, rfl⟩ := execRet_next h <;> exact .inl rfl
  case call => obtain rfl | ⟨k, -, rfl⟩ := execCall_next h <;> exact .inl rfl
  case waitKey => obtain ⟨b, rfl⟩ | rfl := execWaitKey_next h <;> exact .inl rfl
  case skipEqImm | skipNeImm | skipEqReg | skipNeReg | skipKey | skipNoKey =>
    obtain rfl | rfl := skipIf_next h <;> exact .inl rfl
  all_goals -- the instructions without a branch, none of which stores
    cases h
    exact .inl rfl

/-- An instruction keeps the canonical form of memory. -/
theorem exec_wf {i : Instr} {s t : State} (h : exec i s = .next t) (hm : s.mem.wf s.font) : t.mem.wf t.font := by
  rw [exec_font h]
  rcases exec_mem h with he | ⟨a, l, he⟩
  · rwa [he]
  · rw [he]
    exact State.wf_store hm a l

/-! ### The stack (R27, R28) -/

/-- The stack's part of the invariant: at most 16 entries, each the address after a call (R40). -/
def State.StackInv (s : State) : Prop :=
  s.sp.toNat ≤ 16 ∧ ∀ k : Fin 16, k.val < s.sp.toNat → s.stack[k].toNat ≤ 0x1000

theorem State.StackInv.congr {s t : State} (hs : s.StackInv) (hsp : t.sp = s.sp)
    (hstack : ∀ k : Fin 16, t.stack[k] = s.stack[k]) : t.StackInv := by
  refine ⟨hsp ▸ hs.1, fun k hk => ?_⟩
  rw [hstack]
  exact hs.2 k (hsp ▸ hk)

theorem State.StackInv.popToPc {s : State} (hs : s.StackInv) {k : Fin 16} (hk : s.sp.toNat = k.val + 1) :
    (s.popToPc k).StackInv := by
  have hsp : (s.popToPc k).sp.toNat = k.val := by
    rw [State.popToPc_sp, BitVec.toNat_sub_of_le (by rw [BitVec.le_def, hk]; simp), hk]
    rfl
  refine ⟨by omega, fun j hj => hs.2 j (by omega)⟩

theorem State.StackInv.push {s : State} (hs : s.StackInv) {k : Fin 16} (hk : s.sp.toNat = k.val) {w : Word}
    (hw : w.toNat ≤ 0x1000) : (s.push k w).StackInv := by
  have hsp : (s.push k w).sp.toNat = k.val + 1 := by
    have := k.isLt
    rw [State.push_sp, BitVec.toNat_add, hk]
    show (k.val + 1) % 256 = _
    omega
  refine ⟨by omega, fun j hj => ?_⟩
  rw [State.stack_push]
  split
  · exact hw
  · next hne => exact hs.2 j (by have := Fin.val_ne_of_ne hne; omega)

/-- An instruction that runs with its return address within R28's bound keeps the stack's invariant. -/
theorem exec_stackInv {i : Instr} {s t : State} (h : exec i s = .next t) (hs : s.StackInv)
    (hpc : s.pc.toNat ≤ 0x1000) : t.StackInv := by
  by_cases hw : Part.sp ∈ i.writes
  · rcases sp_mem_writes.mp hw with rfl | ⟨addr, rfl⟩
    · obtain rfl | ⟨k, hk, rfl⟩ := execRet_next h
      · exact hs
      · exact hs.popToPc hk
    · obtain rfl | ⟨k, hk, rfl⟩ := execCall_next h
      · exact hs
      · exact hs.push hk hpc
  · have hstack (k : Fin 16) : Part.stackEntry k ∉ i.writes := fun hk =>
      hw (sp_mem_writes.mpr (.inr (stackEntry_mem_writes.mp hk)))
    exact hs.congr (same_of_notMem_writes (p := .sp) h (by decide) (by decide) hw) fun k =>
      same_of_notMem_writes (p := .stackEntry k) h (by simp) (by simp) (hstack k)

/-! ### The program counter (R25) -/

/-- A skip moves `pc` by at most 2. -/
theorem skipIf_pc_le {c : Bool} {s t : State} (h : skipIf c s = .next t) (hpc : s.pc.toNat ≤ 0x1000) :
    t.pc.toNat ≤ 0x10FE := by
  obtain rfl | rfl := skipIf_next h
  · rw [State.setPc_pc, BitVec.toNat_add]
    show (_ + 2) % 65536 ≤ _
    omega
  · omega

/-- An encodable instruction run at `pc = ia + 2`, `ia` fetchable, leaves `pc` at most at 0xFFF + 0xFF (R40, R107). -/
theorem exec_pc_le {i : Instr} {s t : State} (h : exec i s = .next t) (hi : i.WellFormed) (hs : s.StackInv)
    (hlo : 2 ≤ s.pc.toNat) (hhi : s.pc.toNat ≤ 0x1000) : t.pc.toNat ≤ 0x10FE := by
  by_cases hw : Part.pc ∈ i.writes
  case neg =>
    have hpc : t.pc = s.pc := same_of_notMem_writes (p := .pc) h (by decide) (by decide) hw
    rw [hpc]
    omega
  cases i
  case jp addr =>
    have ha : addr.toNat < 4096 := of_decide_eq_true hi
    cases h
    show addr.toNat ≤ _
    omega
  case jpV0 addr =>
    have ha : addr.toNat < 4096 := of_decide_eq_true hi
    have hv := (s.reg 0).isLt
    cases h
    show (addr + (s.reg 0).setWidth 16).toNat ≤ _
    rw [BitVec.toNat_add, BitVec.toNat_setWidth]
    omega
  case call addr =>
    have ha : addr.toNat < 4096 := of_decide_eq_true hi
    obtain rfl | ⟨k, -, rfl⟩ := execCall_next h
    · rw [State.raise_pc]
      omega
    · rw [State.setPc_pc]
      omega
  case ret =>
    obtain rfl | ⟨k, hk, rfl⟩ := execRet_next h
    · rw [State.raise_pc]
      omega
    · have := hs.2 k (by omega)
      rw [State.popToPc_pc]
      omega
  case waitKey x =>
    obtain ⟨b, rfl⟩ | rfl := execWaitKey_next h
    · rw [State.setReg_pc]
      omega
    · have h2 : (2 : Word) ≤ s.pc := BitVec.le_def.mpr (by exact hlo)
      rw [State.setPc_pc, BitVec.toNat_sub_of_le h2]
      omega
  case skipEqImm | skipNeImm | skipEqReg | skipNeReg | skipKey | skipNoKey => exact skipIf_pc_le h hhi
  all_goals exact absurd hw (by simp [Instr.writes, allPixels]) -- the instructions that do not write `pc`

/-! ### Status and cause (R33, R34) -/

/-- The cause latch holds a cause exactly in Crashed (R40). -/
def State.CauseInv (s : State) : Prop := s.cause = none ↔ s.status ≠ .crashed

theorem State.causeInv_raise (s : State) (c : FaultCause) : (s.raise c).CauseInv := by
  simp [State.CauseInv]

theorem exec_causeInv {i : Instr} {s t : State} (h : exec i s = .next t) (hs : s.CauseInv) : t.CauseInv := by
  rcases exec_frame i s t h with hf | ⟨rfl, -⟩ | ⟨rfl, -⟩ | ⟨rfl, -⟩
  · have hcause : t.cause = s.cause := hf .cause (cause_notMem_writes i)
    have hstatus : t.status = s.status := hf .status (status_notMem_writes i)
    rw [State.CauseInv, hcause, hstatus]
    exact hs
  all_goals exact s.causeInv_raise _

/-! ### The invariant through each event -/

theorem State.Inv.raise {s : State} (hs : s.Inv) (c : FaultCause) : (s.raise c).Inv := by
  obtain ⟨hmem, hsp, hstack, hpc, -⟩ := hs
  exact ⟨hmem, hsp, hstack, hpc, s.causeInv_raise c⟩

theorem State.Inv.advance {s : State} (hs : s.Inv) (hf : fetchable s.pc) : s.advance.Inv := by
  obtain ⟨hmem, hsp, hstack, -, hcause⟩ := hs
  have hf : s.pc.toNat + 1 < 4096 := hf
  exact ⟨hmem, hsp, hstack, by rw [toNat_advance_pc hf]; omega, hcause⟩

/-- An encodable instruction, run with `pc` where a fetch leaves it, keeps the invariant. -/
theorem exec_inv {i : Instr} {s t : State} (h : exec i s = .next t) (hi : i.WellFormed) (hs : s.Inv)
    (hlo : 2 ≤ s.pc.toNat) (hhi : s.pc.toNat ≤ 0x1000) : t.Inv := by
  obtain ⟨hmem, hsp, hstack, -, hcause⟩ := hs
  obtain ⟨hsp', hstack'⟩ := exec_stackInv h ⟨hsp, hstack⟩ hhi
  exact ⟨exec_wf h hmem, hsp', hstack', exec_pc_le h hi ⟨hsp, hstack⟩ hlo hhi, exec_causeInv h hcause⟩

theorem dispatcherStep_inv {s t : State} (h : dispatcherStep s = .next t) (hs : s.Inv) : t.Inv := by
  rcases dispatcherStep_cases s with ⟨i, ⟨hf, hd⟩, hi⟩ | ⟨hf, -, hu⟩ | ⟨-, hb⟩
  · have hpc := toNat_advance_pc hf
    have hf' : s.pc.toNat + 1 < 4096 := hf
    exact exec_inv (hi.symm.trans h) (decode_wellFormed hd) (hs.advance hf) (by omega) (by omega)
  · cases hu.symm.trans h
    exact (hs.advance hf).raise _
  · cases hb.symm.trans h
    exact hs.raise _

/-- `load` leaves a status that is not Crashed, with the cause it found (R204). -/
theorem load_inv {s : State} (hs : s.Inv) (bytes : List Byte) : (load bytes s).Inv := by
  rw [load_eq]
  split
  · next hl =>
    obtain ⟨hmem, hsp, hstack, hpc, hcause⟩ := hs
    exact ⟨State.wf_store hmem _ _, hsp, hstack, hpc, by simpa [hl.1] using hcause⟩
  · exact hs

theorem stop_inv {s : State} (hs : s.Inv) : (stop s).Inv := by
  unfold stop
  split
  · next hr =>
    obtain ⟨hmem, hsp, hstack, hpc, hcause⟩ := hs
    exact ⟨hmem, hsp, hstack, hpc, by simpa [hr] using hcause⟩
  · exact hs

theorem resetWith_inv (f : Font) : (State.resetWith f).Inv := by
  refine ⟨Memory.wf_nil f, Nat.zero_le _, fun k hk => absurd hk (Nat.not_lt_zero _), ?_, ?_⟩
  · rw [State.resetWith_pc]
    decide
  · simp

theorem applyEvent_inv {e : Event} {s t : State} (h : applyEvent e s = .next t) (hs : s.Inv) : t.Inv := by
  cases e with
  | step =>
    rw [applyEvent] at h
    split at h
    · exact dispatcherStep_inv h hs
    · cases h
      exact hs
  | reset => cases h; exact resetWith_inv s.font
  | load bytes => cases h; exact load_inv hs bytes
  | stop => cases h; exact stop_inv hs
  | tick | setKey | clearChanged => cases h; exact hs

/-- Settles O58: the invariant by parts through an instruction, then through each way the machine moves. -/
theorem stepKeepsInvariant : Obligations.StepKeepsInvariant := by
  intro s t hs h
  rcases step_cases s with ⟨e, rest, -, he⟩ | ⟨-, -, hd⟩ | ⟨-, -, hf⟩
  · have hrest : (s.setSchedule rest).Inv := hs
    exact applyEvent_inv (he.symm.trans h) hrest
  · exact dispatcherStep_inv (hd.symm.trans h) hs
  · cases hf.symm.trans h

/-! ### The state after reset (R38) -/

/-- Settles O59: nothing is listed in memory, the stack is empty and no cause is latched. -/
theorem resetMeetsInvariant : Obligations.ResetMeetsInvariant := ⟨resetWith_inv defaultFont, resetWith_inv⟩

theorem resetWith_reg (f : Font) (x : Reg) : (State.resetWith f).reg x = 0 := by simp [State.reg]

theorem resetWith_stackEntry (f : Font) (k : Fin 16) : (State.resetWith f).stack[k] = 0 := by simp

theorem resetWith_key (f : Font) (k : Key) : (State.resetWith f).key k = false := by simp [State.key]

/-- Settles O47, cell by cell. -/
theorem resetState : Obligations.ResetState := by
  refine ⟨fun f => ⟨resetWith_reg f, rfl, rfl, rfl, resetWith_stackEntry f, rfl, rfl, resetWith_key f,
    Framebuffer.pixel_blank, rfl, rfl, rfl, ?_, ?_⟩, rfl⟩
  · exact fun a ha => resetByte_font f ha
  · exact fun a ha => resetByte_zero f ha

end Sys2Proof.Machine
end

section
/-! Crashed and Stopped are terminal (R178, R188): what each event but `reset` may still write there. -/

namespace Sys2Proof.Machine

theorem onlyChanges_tick (s : State) : OnlyChanges {.dt, .st} s (tick s) :=
  (onlyChanges_setDt s _).trans (onlyChanges_setSt _ _)

theorem load_eq_self {s : State} (h : s.status ≠ .uninitialized) (bytes : List Byte) : load bytes s = s := by
  rw [load_eq, if_neg fun hl => h hl.1]

theorem stop_eq_self {s : State} (h : s.status ≠ .running) : stop s = s := if_neg h

/-- Settles O56: a step, `load` and `stop` do nothing, the other events write the host's cells alone. -/
theorem crashedStoppedAreTerminal : Obligations.CrashedStoppedAreTerminal := by
  intro e s hs he
  have hrun : s.status ≠ .running := by rcases hs with h | h <;> simp [h]
  have huninit : s.status ≠ .uninitialized := by rcases hs with h | h <;> simp [h]
  cases e with
  | reset => exact absurd rfl he
  | step => exact ⟨s, if_neg hrun, OnlyChanges.refl _ s⟩
  | load bytes => exact ⟨s, congrArg _ (load_eq_self huninit bytes), OnlyChanges.refl _ s⟩
  | stop => exact ⟨s, congrArg _ (stop_eq_self hrun), OnlyChanges.refl _ s⟩
  | tick => exact ⟨tick s, rfl, (onlyChanges_tick s).mono (by rintro p (rfl | rfl) <;> simp)⟩
  | setKey k b => exact ⟨s.setKeyBit k b, rfl, (onlyChanges_setKeyBit s k b).mono (by rintro p rfl; simp)⟩
  | clearChanged => exact ⟨s.setChanged false, rfl, (onlyChanges_setChanged s false).mono (by rintro p rfl; simp)⟩

end Sys2Proof.Machine
end

section
/-! Memory: who writes it (R52), and what the next fetch reads after a store (R63). -/

namespace Sys2Proof.Machine

/-! ### The writers of memory: the table `Instr.writes`, read by column -/

theorem byte_mem_writes {i : Instr} {a : Nat} :
    Part.byte a ∈ i.writes ↔ (∃ x, i = .storeBcd x) ∨ ∃ x, i = .storeRegs x := by
  cases i <;> simp [Instr.writes, allPixels]

/-- Settles O51, by the writers of a byte of memory. -/
theorem onlyStoresWriteMemory : Obligations.OnlyStoresWriteMemory := fun _ _ _ h ⟨a, hd⟩ =>
  byte_mem_writes.mp (mem_writes_of_changed (p := .byte a) h (by simp) (by simp) hd)

/-! ### What a store within bounds answers (R143, R144) -/

theorem exec_storeBcd_of_inBounds {s : State} (x : Reg) (h : s.i.toNat + 3 ≤ 4096) :
    exec (.storeBcd x) s = .next (s.store s.base (bcdDigits (s.reg x))) :=
  if_pos (.inr h)

theorem exec_storeRegs_of_inBounds {s : State} (x : Reg) (h : s.i.toNat + x.val + 1 ≤ 4096) :
    exec (.storeRegs x) s = .next (s.store s.base (s.regsUpTo x)) :=
  if_pos (.inr h)

/-! ### The bytes stored -/

theorem length_bcdDigits (v : Byte) : (bcdDigits v).length = 3 := rfl

/-- `Fx33`'s bytes are the decimal digits as numbers: none of them is reduced modulo 256 (R143). -/
theorem toNat_getD_bcdDigits (v : Byte) {k : Nat} (hk : k < 3) : ((bcdDigits v).getD k 0).toNat = decimalDigit v k := by
  have hv := v.isLt
  match k, hk with
  | 0, _ => show v.toNat / 100 % 256 = v.toNat / 100; omega
  | 1, _ => show v.toNat / 10 % 10 % 256 = v.toNat / 10 % 10; omega
  | 2, _ => show v.toNat % 10 % 256 = v.toNat % 10; omega

/-- `Fx55`'s byte `k` is register `k`, by its number (R144). -/
theorem State.getD_regsUpTo_ofNat (s : State) (x : Reg) {k : Nat} (hk : k < x.val + 1) (d : Byte) :
    (s.regsUpTo x).getD k d = s.reg (Fin.ofNat 16 k) := by
  have hval : (Fin.ofNat 16 k).val = k := Nat.mod_eq_of_lt (by omega)
  have hle : Fin.ofNat 16 k ≤ x := Fin.le_def.mpr (by omega)
  rw [← s.getD_regsUpTo x (Fin.ofNat 16 k) hle d, hval]

/-! ### The fetch after a store (R63) -/

/-- A store at `I` within memory leaves at every address what `byteAfter` says of the bytes stored. -/
theorem State.toNat_byte_store_base {s : State} {l : List Byte} {n : Nat} {b : Nat → Nat} (hlen : l.length = n)
    (hn : s.base + n ≤ 4096) (hb : ∀ k < n, (l.getD k 0).toNat = b k) (a : Nat) :
    ((s.store s.base l).byte a).toNat = s.byteAfter n b a := by
  subst hlen
  rw [State.byte_store s s.base l hn, State.byteAfter, State.base]
  by_cases ha : s.i.toNat ≤ a ∧ a < s.i.toNat + l.length
  · rw [if_pos ha, if_pos ha]
    exact hb _ (by omega)
  · rw [if_neg ha, if_neg ha]

/-- The word fetched after a store at `I`: each of its two bytes as stored, or as it was. -/
theorem State.toNat_fetchedWord_store_base {s : State} {l : List Byte} {n : Nat} {b : Nat → Nat} (hlen : l.length = n)
    (hn : s.base + n ≤ 4096) (hb : ∀ k < n, (l.getD k 0).toNat = b k) :
    (s.store s.base l).fetchedWord.toNat = s.byteAfter n b s.pc.toNat * 256 + s.byteAfter n b (s.pc.toNat + 1) := by
  rw [State.toNat_fetchedWord, State.store_pc, State.toNat_byte_store_base hlen hn hb,
    State.toNat_byte_store_base hlen hn hb]

/-- Settles O10: both instructions are one store at `I`, of the registers or of the digits, and leave `pc`. -/
theorem storeSeenByNextFetch : Obligations.StoreSeenByNextFetch := by
  intro s x
  refine ⟨fun h => ⟨_, exec_storeRegs_of_inBounds x h, rfl, ?_⟩, fun h => ⟨_, exec_storeBcd_of_inBounds x h, rfl, ?_⟩⟩
  · exact State.toNat_fetchedWord_store_base (s.length_regsUpTo x) h fun _ hk =>
      congrArg _ (s.getD_regsUpTo_ofNat x hk 0)
  · exact State.toNat_fetchedWord_store_base (length_bcdDigits (s.reg x)) h fun _ => toNat_getD_bcdDigits (s.reg x)

end Sys2Proof.Machine
end

section
/-! Decoding and encoding are inverse to each other (R70 to R76). -/

namespace Sys2Proof

/-! ### Decoding an encoding -/

/-- The cases are the formats of R72, and within a format the part of the decoder that reads it. -/
theorem decode_encode {i : Instr} (h : i.WellFormed) : decode (encode i) = .ok i := by
  cases i
  case ret | cls => decide
  case jp addr | call addr | jpV0 addr | loadI addr =>
    have ha : addr.toNat < 4096 := of_decide_eq_true h
    simp [encode, decode, fields_encodeA, ha]
  case skipEqImm x kk | skipNeImm x kk | loadImm x kk | addImm x kk | rnd x kk =>
    simp [encode, decode, fieldKk, fields_encodeXK, kk.isLt]
  case skipKey | skipNoKey => simp [encode, decode, decodeFamilyE, fields_encodeXK]
  case addI | glyph | storeBcd | storeRegs | loadRegs | waitKey | readDelay | setDelay | setSound =>
    simp [encode, decode, decodeFamilyF, fields_encodeXK]
  case skipEqReg => simp [encode, decode, decodeFamily5, fields_encodeXYN]
  case skipNeReg => simp [encode, decode, decodeFamily9, fields_encodeXYN]
  case copy | orReg | andReg | xorReg | addReg | subReg | shr | subnReg | shl =>
    simp [encode, decode, decodeFamily8, fields_encodeXYN]
  case draw x y n =>
    have hn : n < 16 := of_decide_eq_true h
    simp [encode, decode, fields_encodeXYN, hn]

/-- Settles O1, by the fields of each encoding format. -/
theorem decodeEncode : Obligations.DecodeEncode := fun _ => decode_encode

/-! ### Encoding the fields of a word: no bit of it lies outside them (R71, R72) -/

theorem encodeA_fields (w : Word) : encodeA (fieldF w) (fieldAddr w) = w := by
  apply BitVec.eq_of_toNat_eq
  have := w.isLt
  rw [encodeA, BitVec.toNat_ofNat, fieldF_eq, fieldAddr_toNat]
  omega

theorem encodeXK_fields (w : Word) : encodeXK (fieldF w) (fieldX w) (fieldSub w) = w := by
  apply BitVec.eq_of_toNat_eq
  have := w.isLt
  rw [encodeXK, BitVec.toNat_ofNat, fieldF_eq, fieldX_val, fieldSub_eq]
  omega

theorem encodeXYN_fields (w : Word) : encodeXYN (fieldF w) (fieldX w) (fieldY w) (fieldN w) = w := by
  apply BitVec.eq_of_toNat_eq
  have := w.isLt
  rw [encodeXYN, BitVec.toNat_ofNat, fieldF_eq, fieldX_val, fieldY_val, fieldN_eq]
  omega

theorem fieldKk_toNat_eq_fieldSub (w : Word) : (fieldKk w).toNat = fieldSub w := by rw [fieldKk_toNat, fieldSub_eq]

/-- Family 0 looks at all of `op[11:0]`, the bits of format A's address (R75). -/
theorem fieldAddr_toNat_eq_bits (w : Word) : (fieldAddr w).toNat = bits w 11 0 := by
  rw [fieldAddr_toNat]
  simp [bits]

theorem fieldF_lt (w : Word) : fieldF w < 16 := by
  have := w.isLt
  rw [fieldF_eq]
  omega

/-! ### Encoding what a word decodes to -/

variable {w : Word} {i : Instr}

theorem encode_of_decodeFamily0 (hf : fieldF w = 0x0) (h : decodeFamily0 w = .ok i) : encode i = w := by
  have hw := encodeA_fields w
  rw [encodeA, fieldAddr_toNat_eq_bits, hf] at hw
  unfold decodeFamily0 at h
  split at h <;> cases h
  all_goals
    next hb => rwa [hb] at hw

theorem encode_of_decodeFamily5 (hf : fieldF w = 0x5) (h : decodeFamily5 w = .ok i) : encode i = w := by
  have hw := encodeXYN_fields w
  unfold decodeFamily5 at h
  split at h <;> cases h
  next hn => rwa [hf, hn] at hw

theorem encode_of_decodeFamily8 (hf : fieldF w = 0x8) (h : decodeFamily8 w = .ok i) : encode i = w := by
  have hw := encodeXYN_fields w
  unfold decodeFamily8 at h
  split at h <;> cases h
  all_goals
    next hn => rwa [hf, hn] at hw

theorem encode_of_decodeFamily9 (hf : fieldF w = 0x9) (h : decodeFamily9 w = .ok i) : encode i = w := by
  have hw := encodeXYN_fields w
  unfold decodeFamily9 at h
  split at h <;> cases h
  next hn => rwa [hf, hn] at hw

theorem encode_of_decodeFamilyE (hf : fieldF w = 0xE) (h : decodeFamilyE w = .ok i) : encode i = w := by
  have hw := encodeXK_fields w
  unfold decodeFamilyE at h
  split at h <;> cases h
  all_goals
    next hk => rwa [hf, hk] at hw

theorem encode_of_decodeFamilyF (hf : fieldF w = 0xF) (h : decodeFamilyF w = .ok i) : encode i = w := by
  have hw := encodeXK_fields w
  unfold decodeFamilyF at h
  split at h <;> cases h
  all_goals
    next hk => rwa [hf, hk] at hw

/-- The cases are the arms of `decode`, families 0 to F in order. -/
theorem encode_of_decode (h : decode w = .ok i) : encode i = w := by
  unfold decode at h
  split at h
  case h_1 hf => exact encode_of_decodeFamily0 hf h
  case h_6 hf => exact encode_of_decodeFamily5 hf h
  case h_9 hf => exact encode_of_decodeFamily8 hf h
  case h_10 hf => exact encode_of_decodeFamily9 hf h
  case h_15 hf => exact encode_of_decodeFamilyE hf h
  case h_16 =>
    have hf : fieldF w = 0xF := by grind [fieldF_lt w]
    exact encode_of_decodeFamilyF hf h
  case h_2 hf | h_3 hf | h_11 hf | h_12 hf =>
    cases h
    have hw := encodeA_fields w
    rwa [hf] at hw
  case h_4 hf | h_5 hf | h_7 hf | h_8 hf | h_13 hf =>
    cases h
    have hw := encodeXK_fields w
    rwa [hf, ← fieldKk_toNat_eq_fieldSub] at hw
  case h_14 hf =>
    cases h
    have hw := encodeXYN_fields w
    rwa [hf] at hw

/-- Settles O2: what decodes is well-formed, and the fields it is read from hold every bit of the word. -/
theorem encodeDecode : Obligations.EncodeDecode := fun _ _ h => ⟨decode_wellFormed h, encode_of_decode h⟩

end Sys2Proof
end

section
/-! The decoder is the opcode map (R76, R77). -/

namespace Sys2Proof

/-! ### Words under the masks of the opcode map, by their fields -/

theorem and_F000_eq (w : Word) : w &&& 0xF000 = BitVec.ofNat 16 (fieldF w * 4096) := by
  apply BitVec.eq_of_toNat_eq
  have := w.isLt
  rw [toNat_and_F000, fieldF_eq, BitVec.toNat_ofNat]
  omega

theorem and_F00F_eq (w : Word) : w &&& 0xF00F = BitVec.ofNat 16 (fieldF w * 4096 + fieldN w) := by
  apply BitVec.eq_of_toNat_eq
  have := w.isLt
  rw [toNat_and_F00F, fieldF_eq, fieldN_eq, BitVec.toNat_ofNat]
  omega

theorem and_F0FF_eq (w : Word) : w &&& 0xF0FF = BitVec.ofNat 16 (fieldF w * 4096 + fieldSub w) := by
  apply BitVec.eq_of_toNat_eq
  have := w.isLt
  rw [toNat_and_F0FF, fieldF_eq, fieldSub_eq, BitVec.toNat_ofNat]
  omega

/-! ### The encoding of an instruction matches the instruction's row -/

section
variable {f n kk : Nat} {x y : Reg} {addr : Word}

theorem encodeA_and_F000 (hf : f < 16) (ha : addr.toNat < 4096) :
    encodeA f addr &&& 0xF000 = BitVec.ofNat 16 (f * 4096) := by
  rw [and_F000_eq, (fields_encodeA f addr hf ha).1]

theorem encodeXK_and_F000 (hf : f < 16) (hk : kk < 256) : encodeXK f x kk &&& 0xF000 = BitVec.ofNat 16 (f * 4096) := by
  rw [and_F000_eq, (fields_encodeXK f x kk hf hk).1]

theorem encodeXK_and_F0FF (hf : f < 16) (hk : kk < 256) :
    encodeXK f x kk &&& 0xF0FF = BitVec.ofNat 16 (f * 4096 + kk) := by
  obtain ⟨hF, -, hSub⟩ := fields_encodeXK f x kk hf hk
  rw [and_F0FF_eq, hF, hSub]

theorem encodeXYN_and_F000 (hf : f < 16) (hn : n < 16) :
    encodeXYN f x y n &&& 0xF000 = BitVec.ofNat 16 (f * 4096) := by
  rw [and_F000_eq, (fields_encodeXYN f x y n hf hn).1]

theorem encodeXYN_and_F00F (hf : f < 16) (hn : n < 16) :
    encodeXYN f x y n &&& 0xF00F = BitVec.ofNat 16 (f * 4096 + n) := by
  obtain ⟨hF, -, -, hN⟩ := fields_encodeXYN f x y n hf hn
  rw [and_F00F_eq, hF, hN]

end

/-- The row's pattern is what the mask leaves of the encoding; that such a row stands in the map is decided. -/
theorem encode_matches_row {i : Instr} (h : i.WellFormed) :
    ∃ r ∈ opcodeMap, r.mnemonic = i.mnemonic ∧ encode i &&& r.mask = r.pattern := by
  cases i <;> dsimp only [Instr.mnemonic, encode]
  case ret | cls => decide
  case jp | call | jpV0 | loadI =>
    exact ⟨⟨_, _, _⟩, by decide, rfl, encodeA_and_F000 (by decide) (of_decide_eq_true h)⟩
  case skipEqImm x kk | skipNeImm x kk | loadImm x kk | addImm x kk | rnd x kk =>
    exact ⟨⟨_, _, _⟩, by decide, rfl, encodeXK_and_F000 (by decide) kk.isLt⟩
  case skipKey | skipNoKey | addI | glyph | storeBcd | storeRegs | loadRegs | waitKey | readDelay | setDelay
      | setSound =>
    exact ⟨⟨_, _, _⟩, by decide, rfl, encodeXK_and_F0FF (by decide) (by decide)⟩
  case skipEqReg | skipNeReg | copy | orReg | andReg | xorReg | addReg | subReg | shr | subnReg | shl =>
    exact ⟨⟨_, _, _⟩, by decide, rfl, encodeXYN_and_F00F (by decide) (by decide)⟩
  case draw =>
    exact ⟨⟨_, _, _⟩, by decide, rfl, encodeXYN_and_F000 (by decide) (of_decide_eq_true h)⟩

/-! ### Under its family's mask a word shows which instruction it is -/

/-- The bits that tell the instructions of a family apart: the mask of the family's rows in R76. -/
def familyMask : Nat → Word
  | 0x0 => 0xFFFF
  | 0x5 | 0x8 | 0x9 => 0xF00F
  | 0xE | 0xF => 0xF0FF
  | _ => 0xF000

/-- A row's mask is its family's, and its pattern has no bit outside the mask and decodes to the row's instruction. -/
theorem opcodeMap_rows : ∀ r ∈ opcodeMap, r.mask = familyMask (fieldF r.pattern) ∧
    r.pattern &&& r.mask = r.pattern ∧ (decode r.pattern).map Instr.mnemonic = .ok r.mnemonic := by
  decide

variable {w p : Word}

theorem fieldF_eq_of_and_F000 (h : w &&& 0xF000 = p &&& 0xF000) : fieldF w = fieldF p := by
  have := congrArg BitVec.toNat h
  rw [toNat_and_F000, toNat_and_F000] at this
  rw [fieldF_eq, fieldF_eq]
  omega

theorem fields_eq_of_and_F00F (h : w &&& 0xF00F = p &&& 0xF00F) : fieldF w = fieldF p ∧ fieldN w = fieldN p := by
  have := congrArg BitVec.toNat h
  rw [toNat_and_F00F, toNat_and_F00F] at this
  rw [fieldF_eq, fieldF_eq, fieldN_eq, fieldN_eq]
  omega

theorem fields_eq_of_and_F0FF (h : w &&& 0xF0FF = p &&& 0xF0FF) : fieldF w = fieldF p ∧ fieldSub w = fieldSub p := by
  have := congrArg BitVec.toNat h
  rw [toNat_and_F0FF, toNat_and_F0FF] at this
  rw [fieldF_eq, fieldF_eq, fieldSub_eq, fieldSub_eq]
  omega

/-- Words that agree under the family's mask decode to the same instruction but for its operands, or neither decodes.
The outer cases are the arms of `familyMask`, the inner ones those of `decode`. -/
theorem decode_mnemonic_eq_of_mask (h : w &&& familyMask (fieldF p) = p &&& familyMask (fieldF p)) :
    (decode w).map Instr.mnemonic = (decode p).map Instr.mnemonic := by
  unfold familyMask at h
  split at h
  case h_1 =>
    have hw : w &&& BitVec.allOnes 16 = p &&& BitVec.allOnes 16 := h
    rw [BitVec.and_allOnes, BitVec.and_allOnes] at hw
    rw [hw]
  case h_2 hp | h_3 hp | h_4 hp =>
    obtain ⟨hF, hN⟩ := fields_eq_of_and_F00F h
    simp only [decode, hF, hp, decodeFamily5, decodeFamily8, decodeFamily9, hN]
    split <;> rfl
  case h_5 hp | h_6 hp =>
    obtain ⟨hF, hSub⟩ := fields_eq_of_and_F0FF h
    simp only [decode, hF, hp, decodeFamilyE, decodeFamilyF, hSub]
    split <;> rfl
  case h_7 =>
    have hF := fieldF_eq_of_and_F000 h
    unfold decode
    rw [hF]
    split
    case h_1 | h_6 | h_9 | h_10 | h_15 => contradiction
    case h_16 => grind [fieldF_lt p]
    all_goals rfl

/-- A word that matches a row agrees with the row's pattern under the family's mask. -/
theorem decode_mnemonic_of_matches_row {r : OpcodeRow} (hr : r ∈ opcodeMap) (h : w &&& r.mask = r.pattern) :
    (decode w).map Instr.mnemonic = .ok r.mnemonic := by
  obtain ⟨hmask, hpattern, hdecode⟩ := opcodeMap_rows r hr
  rw [← hdecode]
  apply decode_mnemonic_eq_of_mask
  rw [← hmask, h, hpattern]

/-- Settles O3: a word that decodes is an encoding, which matches its row, and a word that matches a row decodes to
the instruction the row's pattern decodes to. -/
theorem decodeIsOpcodeMap : Obligations.DecodeIsOpcodeMap := by
  intro w
  refine ⟨fun i h => ?_, fun r hr h => ?_⟩
  · rw [← encode_of_decode h]
    exact encode_matches_row (decode_wellFormed h)
  · have hm := decode_mnemonic_of_matches_row hr h
    cases hd : decode w with
    | ok i =>
      rw [hd] at hm
      exact ⟨i, rfl, Except.ok.inj hm⟩
    | error e => rw [hd] at hm; cases hm

/-! ### Words of all sixteen families -/

/-- Settles O4: the decoder computes on each word. -/
theorem specWordsDecode : Obligations.SpecWordsDecode := by
  unfold Obligations.SpecWordsDecode
  decide

end Sys2Proof
end

section
/-! Fetch and dispatch (R90 to R96): which step the machine takes, and that it always completes under the invariant. -/

namespace Sys2Proof.Machine

/-! ### What an instruction answers: a next state for every `sp` the register takes (R27, R96) -/

theorem skipIf_completes (c : Bool) (s : State) : ∃ t, skipIf c s = .next t := ⟨_, skipIf_eq c s⟩

theorem withBounds_completes {len : Nat} {s : State} {body : State → Result} (h : ∃ t, body s = .next t) :
    ∃ t, withBounds len s body = .next t := by
  unfold withBounds
  split
  · exact h
  · exact ⟨_, rfl⟩

theorem execWaitKey_completes (x : Reg) (s : State) : ∃ t, execWaitKey x s = .next t := by
  unfold execWaitKey
  split <;> exact ⟨_, rfl⟩

theorem execRet_completes {s : State} (hsp : s.sp.toNat ≤ 16) : ∃ t, execRet s = .next t := by
  unfold execRet
  split
  · exact ⟨_, rfl⟩
  · have hk : s.sp.toNat - 1 < 16 := by omega
    rw [dif_pos hk]
    exact ⟨_, rfl⟩

theorem execCall_completes (addr : Word) {s : State} (hsp : s.sp.toNat ≤ 16) : ∃ t, execCall addr s = .next t := by
  unfold execCall
  split
  · exact ⟨_, rfl⟩
  · next hne =>
    have hne : s.sp.toNat ≠ 16 := fun e => hne (BitVec.eq_of_toNat_eq e)
    have hk : s.sp.toNat < 16 := by omega
    rw [dif_pos hk]
    exact ⟨_, rfl⟩

/-- No instruction lacks a next state while `sp` counts at most 16 entries: only call and return look at it. -/
theorem exec_completes (i : Instr) {s : State} (hsp : s.sp.toNat ≤ 16) : ∃ t, exec i s = .next t := by
  cases i
  case ret => exact execRet_completes hsp
  case call addr => exact execCall_completes addr hsp
  case skipEqImm | skipNeImm | skipEqReg | skipNeReg | skipKey | skipNoKey => exact skipIf_completes _ s
  case storeBcd | storeRegs | loadRegs | draw =>
    simp only [exec, execStoreBcd, execStoreRegs, execLoadRegs, execDraw]
    exact withBounds_completes ⟨_, rfl⟩
  case waitKey x => exact execWaitKey_completes x s
  all_goals exact ⟨_, rfl⟩ -- the instructions without a branch

/-- Settles O55: an instruction's writes hold neither `status` nor `cause`, and each fault is one `raise`. -/
theorem execCompletesOrFaults : Obligations.ExecCompletesOrFaults := by
  intro i s t h
  rcases exec_frame i s t h with hf | ⟨rfl, hm⟩ | ⟨rfl, hm⟩ | ⟨rfl, hm⟩
  · exact .inl ⟨hf .status (status_notMem_writes i), hf .cause (cause_notMem_writes i)⟩
  · exact .inr (.inl ⟨faultedFrom_raise s _, hm⟩)
  · exact .inr (.inr (.inl ⟨faultedFrom_raise s _, hm⟩))
  · exact .inr (.inr (.inr ⟨faultedFrom_raise s _, hm⟩))

/-- An instruction leaves `status` as it was, or Crashed (R94, R171). -/
theorem exec_status {i : Instr} {s t : State} (h : exec i s = .next t) :
    t.status = s.status ∨ t.status = .crashed := by
  rcases execCompletesOrFaults i s t h with ⟨hs, -⟩ | ⟨⟨hc, -⟩, -⟩ | ⟨⟨hc, -⟩, -⟩ | ⟨⟨hc, -⟩, -⟩
  · exact .inl hs
  all_goals exact .inr hc

/-! ### Which step the machine takes, and what it does (R90 to R95) -/

theorem applyEvent_step_of_running {s : State} (hr : s.status = .running) :
    applyEvent .step s = dispatcherStep s := if_pos hr

theorem applyEvent_step_of_not_running {s : State} (hr : s.status ≠ .running) :
    applyEvent .step s = .next s := if_neg hr

theorem step_of_schedule_nil {s : State} (hr : s.status = .running) (h : s.schedule = []) :
    step s = dispatcherStep s := by
  rw [step, nextEvent, h]
  exact if_pos hr

theorem step_of_scheduled_step {s : State} {rest : List Event} (hr : s.status = .running)
    (h : s.schedule = .step :: rest) : step s = dispatcherStep (s.setSchedule rest) :=
  (stepTakesScheduledEvent s .step rest h).trans (applyEvent_step_of_running hr)

theorem dispatcherStep_of_fetches {s : State} {i : Instr} (h : s.Fetches i) :
    dispatcherStep s = exec i s.advance := by
  obtain ⟨hf, hd⟩ := h
  rw [dispatcherStep, if_pos hf, execute, hd]

theorem dispatcherStep_of_decode_error {s : State} {e : DecodeError} (hf : fetchable s.pc)
    (hd : decode s.fetchedWord = .error e) : dispatcherStep s = .next (s.advance.raise .unknownOpcode) := by
  rw [dispatcherStep, if_pos hf, execute, hd]

/-! ### A step under the invariant -/

/-- Under R27's bound on `sp` the dispatcher's step of a Running machine completes, in Running or Crashed. -/
theorem dispatcherStep_completes {s : State} (hsp : s.sp.toNat ≤ 16) (hr : s.status = .running) :
    ∃ t, dispatcherStep s = .next t ∧ (t.status = .running ∨ t.status = .crashed) := by
  rcases dispatcherStep_cases s with ⟨i, -, hi⟩ | ⟨-, -, hu⟩ | ⟨-, hb⟩
  · obtain ⟨t, ht⟩ := exec_completes i (s := s.advance) hsp
    exact ⟨t, hi.trans ht, (exec_status ht).imp_left fun hs => hs.trans hr⟩
  · exact ⟨_, hu, .inr rfl⟩
  · exact ⟨_, hb, .inr rfl⟩

/-- Under R27's bound on `sp` every event completes, the step of a Running machine in Running or Crashed. -/
theorem applyEvent_completes (e : Event) {s : State} (hsp : s.sp.toNat ≤ 16) :
    ∃ t, applyEvent e s = .next t ∧
      (e = .step → s.status = .running → t.status = .running ∨ t.status = .crashed) := by
  cases e
  case step =>
    by_cases hr : s.status = .running
    · obtain ⟨t, ht, hs⟩ := dispatcherStep_completes hsp hr
      exact ⟨t, (applyEvent_step_of_running hr).trans ht, fun _ _ => hs⟩
    · exact ⟨s, applyEvent_step_of_not_running hr, fun _ h => absurd h hr⟩
  all_goals exact ⟨_, rfl, nofun⟩ -- the host's events, total functions of the state

/-! ### The statements -/

/-- Settles O57: of the invariant, the bound on `sp` is what completion rests on. -/
theorem stepAlwaysCompletes : Obligations.StepAlwaysCompletes := by
  intro s ⟨_, hsp, _⟩
  refine ⟨fun e => applyEvent_completes e hsp, fun hr hsched => ?_, fun hsched => ?_⟩
  · rw [step_of_schedule_nil hr hsched]
    exact dispatcherStep_completes hsp hr
  · obtain ⟨e, rest, he⟩ := List.exists_cons_of_ne_nil hsched
    obtain ⟨t, ht, -⟩ := applyEvent_completes e (s := s.setSchedule rest) hsp
    exact ⟨t, (stepTakesScheduledEvent s e rest he).trans ht⟩

/-- Settles O5: either step is the dispatcher's, and a schedule has no part in the fetch. -/
theorem stepRunsDecoded : Obligations.StepRunsDecoded := by
  intro s i hr hf
  refine ⟨fun hsched => ?_, fun rest hsched => ?_, toNat_advance_pc hf.1, onlyChanges_advance s,
    State.toNat_fetchedWord s⟩
  · exact (step_of_schedule_nil hr hsched).trans (dispatcherStep_of_fetches hf)
  · have hf' : (s.setSchedule rest).Fetches i := hf
    exact (step_of_scheduled_step hr hsched).trans (dispatcherStep_of_fetches hf')

/-- Settles O7: each of the three steps is the dispatcher's, which advances `pc` and raises UnknownOpcode. -/
theorem unknownOpcodeFaults : Obligations.UnknownOpcodeFaults := by
  intro s e hr hf hd
  obtain ⟨hstatus, hcause, hframe⟩ := faultedFrom_raise s.advance .unknownOpcode
  have hstep := dispatcherStep_of_decode_error hf hd
  refine ⟨s.advance.raise .unknownOpcode, (applyEvent_step_of_running hr).trans hstep,
    fun hsched => (step_of_schedule_nil hr hsched).trans hstep, fun rest hsched => ?_, toNat_advance_pc hf,
    hstatus, hcause, (onlyChanges_advance s).trans hframe⟩
  have hd' : decode (s.setSchedule rest).fetchedWord = .error e := hd
  exact (step_of_scheduled_step hr hsched).trans (dispatcherStep_of_decode_error hf hd')

/-- Settles O9, by the last branch of `applyEvent` on a step and of `nextEvent`. -/
theorem noStepOutsideRunning : Obligations.NoStepOutsideRunning := by
  intro s hr
  refine ⟨applyEvent_step_of_not_running hr, fun hsched => ?_⟩
  rw [step, nextEvent, hsched]
  exact if_neg hr

end Sys2Proof.Machine
end

section
/-! Control transfer (R100 to R107): what jumps, calls, returns and skips answer. -/

namespace Sys2Proof.Machine

/-! ### Jumps (R101, R107) -/

/-- A 12-bit address and a byte add up without wrap: the sum of `Bxxx` is below 65536 (R107). -/
theorem toNat_add_setWidth_of_addrFits {addr : Word} (ha : addrFits addr) (b : Byte) :
    (addr + b.setWidth 16).toNat = addr.toNat + b.toNat := by
  have hb := b.isLt
  rw [BitVec.toNat_add, BitVec.toNat_setWidth]
  omega

/-- Settles O11: the jump is one write of `pc`. -/
theorem jumpResult : Obligations.JumpResult := fun s addr =>
  ⟨s.setPc addr, rfl, rfl, onlyChanges_setPc s addr⟩

/-- Settles O12: an encodable address leaves the sum room in 16 bits. -/
theorem jumpOffsetResult : Obligations.JumpOffsetResult := fun s addr h =>
  ⟨s.setPc (addr + (s.reg 0).setWidth 16), rfl,
    toNat_add_setWidth_of_addrFits (of_decide_eq_true h) (s.reg 0), onlyChanges_setPc s _⟩

/-! ### Skips (R103 to R106) -/

/-- A skip on two bytes being equal: `pc` two further exactly when they are (R103, R105). -/
theorem skipIf_beq (a b : Byte) (s : State) :
    ∃ t, skipIf (a == b) s = .next t ∧ t.pc = (if a = b then s.pc + 2 else s.pc) ∧ OnlyChanges {.pc} s t :=
  ⟨_, skipIf_eq _ s, by simp, onlyChanges_setPc s _⟩

/-- A skip on two bytes being different: `pc` two further exactly when they are (R104, R106). -/
theorem skipIf_bne (a b : Byte) (s : State) :
    ∃ t, skipIf (a != b) s = .next t ∧ t.pc = (if a = b then s.pc else s.pc + 2) ∧ OnlyChanges {.pc} s t :=
  ⟨_, skipIf_eq _ s, by simp, onlyChanges_setPc s _⟩

/-- Settles O17: the skips on `V[x]` and the immediate. -/
theorem skipImmResult : Obligations.SkipImmResult := fun s x kk =>
  ⟨skipIf_beq (s.reg x) kk s, skipIf_bne (s.reg x) kk s⟩

/-- Settles O18: the skips on `V[x]` and `V[y]`. -/
theorem skipRegResult : Obligations.SkipRegResult := fun s x y =>
  ⟨skipIf_beq (s.reg x) (s.reg y) s, skipIf_bne (s.reg x) (s.reg y) s⟩

/-! ### What call and return answer for each `sp` (R100, R102) -/

section
variable {s : State} {k : Fin 16}

theorem exec_call_of_room (addr : Word) (hk : s.sp.toNat = k.val) :
    exec (.call addr) s = .next ((s.push k s.pc).setPc addr) := by
  have hne : s.sp ≠ 16 := fun e => by
    simp [e] at hk
    omega
  have hlt : s.sp.toNat < 16 := hk ▸ k.isLt
  have hidx : (⟨s.sp.toNat, hlt⟩ : Fin 16) = k := Fin.ext hk
  rw [exec, execCall, if_neg hne, dif_pos hlt, hidx]

theorem exec_ret_of_nonempty (hk : s.sp.toNat = k.val + 1) : exec .ret s = .next (s.popToPc k) := by
  have hne : s.sp ≠ 0 := fun e => by simp [e] at hk
  have hlt : s.sp.toNat - 1 < 16 := by omega
  have hidx : (⟨s.sp.toNat - 1, hlt⟩ : Fin 16) = k := Fin.ext (by show s.sp.toNat - 1 = _; omega)
  rw [exec, execRet, if_neg hne, dif_pos hlt, hidx]

theorem exec_call_of_full (addr : Word) (h : s.sp = 16) : exec (.call addr) s = .next (s.raise .stackOverflow) :=
  if_pos h

theorem exec_ret_of_empty (h : s.sp = 0) : exec .ret s = .next (s.raise .stackUnderflow) := if_pos h

theorem exec_call_of_sp_gt (addr : Word) (h : 16 < s.sp.toNat) : exec (.call addr) s = .fault .noStackEntry := by
  have hne : s.sp ≠ 16 := fun e => by simp [e] at h
  rw [exec, execCall, if_neg hne, dif_neg (by omega)]

theorem exec_ret_of_sp_gt (h : 16 < s.sp.toNat) : exec .ret s = .fault .noStackEntry := by
  have hne : s.sp ≠ 0 := fun e => by simp [e] at h
  rw [exec, execRet, if_neg hne, dif_neg (by omega)]

/-- With room on the stack the count of entries goes up without wrap (R27). -/
theorem State.toNat_sp_push (hk : s.sp.toNat = k.val) (w : Word) : (s.push k w).sp.toNat = s.sp.toNat + 1 := by
  rw [State.push_sp, BitVec.toNat_add_of_lt (by rw [hk]; show k.val + 1 < 256; omega)]
  rfl

/-- With an entry on the stack the count of entries goes down without wrap (R27). -/
theorem State.toNat_sp_popToPc (hk : s.sp.toNat = k.val + 1) : (s.popToPc k).sp.toNat = k.val := by
  have hle : (1 : Byte) ≤ s.sp := BitVec.le_def.mpr (by rw [hk]; exact Nat.le_add_left 1 _)
  rw [State.popToPc_sp, BitVec.toNat_sub_of_le hle, hk]
  rfl

/-- The cells a call with room on the stack writes (R102). -/
theorem onlyChanges_push_setPc (s : State) (k : Fin 16) (w addr : Word) :
    OnlyChanges {.stackEntry k, .sp, .pc} s ((s.push k w).setPc addr) :=
  ((onlyChanges_push s k w).trans (onlyChanges_setPc _ addr)).mono (by simp [Set.insert_subset_iff])

/-- Popping the entry that holds the old `pc` puts back `sp` and `pc`: of the cells a push writes, the entry alone stays
changed (R28). -/
theorem onlyChanges_popToPc_of_pushed {t : State} (hk : s.sp.toNat = k.val) (hsp : t.sp.toNat = k.val + 1)
    (hentry : t.stack[k] = s.pc) (hframe : OnlyChanges {.stackEntry k, .sp, .pc} s t) :
    OnlyChanges {.stackEntry k} s (t.popToPc k) := by
  have hboth : OnlyChanges {.stackEntry k, .sp, .pc} s (t.popToPc k) :=
    hframe.step ((onlyChanges_popToPc t k).mono (by simp))
  intro p hp
  cases p with
  | sp => exact BitVec.eq_of_toNat_eq ((State.toNat_sp_popToPc hsp).trans hk.symm)
  | pc => exact hentry
  | stackEntry j => exact hboth _ (by simpa using hp)
  | _ => exact hboth _ (by simp)

end

/-! ### Calls and returns: the statements -/

/-- Settles O13: a push at `sp`, then the jump. -/
theorem callResult : Obligations.CallResult := fun s addr k hk =>
  ⟨(s.push k s.pc).setPc addr, exec_call_of_room addr hk, (State.stack_push s k k s.pc).trans (if_pos rfl),
    State.toNat_sp_push hk s.pc, rfl, onlyChanges_push_setPc s k s.pc addr⟩

/-- Settles O14: a pop of the entry below `sp`. -/
theorem returnResult : Obligations.ReturnResult := fun s k hk =>
  ⟨s.popToPc k, exec_ret_of_nonempty hk, State.toNat_sp_popToPc hk, rfl, onlyChanges_popToPc s k⟩

/-- Settles O15: each end of the stack raises its fault, and above it there is no entry. -/
theorem stackFaults : Obligations.StackFaults := fun s addr =>
  ⟨fun h => ⟨_, exec_call_of_full addr h, faultedFrom_raise s _⟩,
    fun h => ⟨_, exec_ret_of_empty h, faultedFrom_raise s _⟩,
    fun h => ⟨exec_call_of_sp_gt addr h, exec_ret_of_sp_gt h⟩⟩

/-- Settles O16: the call leaves the return address in the entry that the return pops. -/
theorem returnUndoesCall : Obligations.ReturnUndoesCall := by
  intro s addr k hk
  obtain ⟨t, ht, hentry, hsp, -, hframe⟩ := callResult s addr k hk
  have hspAdvance : t.advance.sp.toNat = k.val + 1 := hsp.trans (by rw [hk])
  have hframeAdvance : OnlyChanges {.stackEntry k, .sp, .pc} s t.advance :=
    hframe.step ((onlyChanges_advance t).mono (by simp))
  exact ⟨t, t.advance.popToPc k, ht, exec_ret_of_nonempty hspAdvance,
    onlyChanges_popToPc_of_pushed hk hspAdvance hentry hframeAdvance⟩

end Sys2Proof.Machine
end

section
/-! Load, arithmetic, logic, random (R118 to R131): what each instruction leaves in `V[x]` and in VF. -/

namespace Sys2Proof.Machine

/-! ### A result written with its flag (R119, D8) -/

theorem State.reg_setWithFlag_result (s : State) {x : Reg} (b : Byte) (f : Bool) (hx : x ≠ vf) :
    (s.setWithFlag x b f).reg x = b := by
  rw [State.reg_setWithFlag, if_neg hx, if_pos rfl]

theorem State.reg_setWithFlag_vf (s : State) (x : Reg) (b : Byte) (f : Bool) :
    (s.setWithFlag x b f).reg vf = flagByte f := by
  rw [State.reg_setWithFlag, if_pos rfl]

/-- What an instruction that writes a result with its flag answers: `V[x]` reads, by `r`, as the result does unless it
is VF, and VF holds the flag. -/
theorem exec_result_of_setWithFlag {α : Type} (r : Byte → α) {i : Instr} {s : State} {x : Reg} {b : Byte} {f : Bool}
    {v : α} {n : Nat} (hi : exec i s = .next (s.setWithFlag x b f)) (hb : r b = v) (hf : (flagByte f).toNat = n) :
    ∃ t, exec i s = .next t ∧ (x ≠ vf → r (t.reg x) = v) ∧ (t.reg vf).toNat = n ∧
      OnlyChanges {.reg x, .reg vf} s t :=
  ⟨_, hi, fun hx => by rw [State.reg_setWithFlag_result s b f hx, hb],
    by rw [State.reg_setWithFlag_vf, hf], onlyChanges_setWithFlag s x b f⟩

/-! ### Results and flags as numbers (R118, R126 to R130) -/

/-- The difference modulo 256 as the integers have it: 256 more keeps the natural subtraction from truncating. -/
theorem intCast_toNat_diff8 (a b : Byte) : ((diff8 a b).toNat : Int) = (a.toNat - b.toNat : Int) % 256 := by
  have ha := a.isLt
  have hb := b.isLt
  rw [toNat_diff8]
  omega

theorem toNat_flagByte_decide (p : Prop) [Decidable p] : (flagByte (decide p)).toNat = if p then 1 else 0 := by
  rw [toNat_flagByte]
  simp only [decide_eq_true_eq]

theorem toNat_flagByte_getLsbD (v : Byte) (j : Nat) : (flagByte (v.getLsbD j)).toNat = v.toNat / 2 ^ j % 2 := by
  rw [toNat_flagByte, ← Bool.cond_eq_ite]
  exact Nat.toNat_testBit v.toNat j

theorem toNat_flagByte_shiftedOutRight (v : Byte) : (flagByte (shiftedOutRight v)).toNat = v.toNat % 2 := by
  rw [shiftedOutRight, toNat_flagByte_getLsbD, pow_zero, Nat.div_one]

/-- Above bit 7 a byte has no bit, so the quotient by 128 is that bit alone. -/
theorem toNat_flagByte_shiftedOutLeft (v : Byte) : (flagByte (shiftedOutLeft v)).toNat = v.toNat / 128 := by
  have hv := v.isLt
  rw [shiftedOutLeft, toNat_flagByte_getLsbD]
  omega

/-! ### The statements on results with a flag -/

/-- Settles O22: the sum with its carry. -/
theorem addRegResult : Obligations.AddRegResult := fun s x y =>
  exec_result_of_setWithFlag BitVec.toNat rfl (toNat_sum8 (s.reg x) (s.reg y)) (toNat_flagByte_decide _)

/-- Settles O23: the difference with its not-borrow. -/
theorem subRegResult : Obligations.SubRegResult := fun s x y =>
  exec_result_of_setWithFlag (fun b => (b.toNat : Int)) rfl (intCast_toNat_diff8 (s.reg x) (s.reg y))
    (toNat_flagByte_decide _)

/-- Settles O24: the difference of the exchanged operands with its not-borrow. -/
theorem subnRegResult : Obligations.SubnRegResult := fun s x y =>
  exec_result_of_setWithFlag (fun b => (b.toNat : Int)) rfl (intCast_toNat_diff8 (s.reg y) (s.reg x))
    (toNat_flagByte_decide _)

/-- Settles O25: half and double, each with the bit shifted out; neither meaning reads `y`. -/
theorem shiftResult : Obligations.ShiftResult := fun s x _ =>
  ⟨exec_result_of_setWithFlag BitVec.toNat rfl (toNat_half8 (s.reg x)) (toNat_flagByte_shiftedOutRight _),
    exec_result_of_setWithFlag BitVec.toNat rfl (toNat_double8 (s.reg x)) (toNat_flagByte_shiftedOutLeft _)⟩

/-! ### Results without a flag (R120 to R125, R131) -/

/-- Settles O19: the write of the immediate, and of `V[y]`. -/
theorem loadAndCopyResult : Obligations.LoadAndCopyResult := fun s x y kk =>
  ⟨⟨s.setReg x kk, rfl, State.reg_setReg_same s x kk, onlyChanges_setReg s x kk⟩,
    ⟨s.setReg x (s.reg y), rfl, State.reg_setReg_same s x _, onlyChanges_setReg s x _⟩⟩

/-- Settles O20: the sum, written without its carry. -/
theorem addImmResult : Obligations.AddImmResult := fun s x kk =>
  ⟨s.setReg x (sum8 (s.reg x) kk), rfl, by rw [State.reg_setReg_same, toNat_sum8], onlyChanges_setReg s x _⟩

/-- Settles O21: each operation works on every bit alone. -/
theorem logicResult : Obligations.LogicResult := fun s x y =>
  ⟨⟨s.setReg x (s.reg x ||| s.reg y), rfl, fun j => by rw [State.reg_setReg_same, BitVec.getLsbD_or],
      onlyChanges_setReg s x _⟩,
    ⟨s.setReg x (s.reg x &&& s.reg y), rfl, fun j => by rw [State.reg_setReg_same, BitVec.getLsbD_and],
      onlyChanges_setReg s x _⟩,
    ⟨s.setReg x (s.reg x ^^^ s.reg y), rfl, fun j => by rw [State.reg_setReg_same, BitVec.getLsbD_xor],
      onlyChanges_setReg s x _⟩⟩

/-- The cells a draw of a random byte to `V[x]` writes (R131). -/
theorem onlyChanges_drawn_setReg (s : State) (x : Reg) (b : Byte) :
    OnlyChanges {.reg x, .draws} s (s.drawn.setReg x b) :=
  ((onlyChanges_drawn s).trans (onlyChanges_setReg _ x b)).mono (by simp)

/-- Settles O26: one draw, whatever byte it gives, and its AND with `kk` written to `V[x]`. -/
theorem randomResult : Obligations.RandomResult := by
  intro s x kk
  refine ⟨s.drawn.setReg x (s.rnd &&& kk), rfl, rfl, fun j => ?_, onlyChanges_drawn_setReg s x _⟩
  rw [State.reg_setReg_same, BitVec.getLsbD_and, State.rnd]

end Sys2Proof.Machine
end

section
/-! Index register and memory (R140 to R145): what `I`, the stored bytes and the loaded registers are. -/

namespace Sys2Proof.Machine

/-! ### Stores within bounds (R143, R144) -/

/-- After a store within memory the byte at `a + k` is byte `k` of what was stored. -/
theorem State.byte_store_add (s : State) {a : Nat} {l : List Byte} (h : a + l.length ≤ Config.memSize) {k : Nat}
    (hk : k < l.length) : (s.store a l).byte (a + k) = l.getD k 0 := by
  rw [State.byte_store s a l h, if_pos (by omega), Nat.add_sub_cancel_left]

/-- Settles O29: one store at `I` of the three digits, none of which is reduced modulo 256. -/
theorem storeBcdResult : Obligations.StoreBcdResult := by
  intro s x h
  have hdigit {k : Nat} (hk : k < 3) :
      ((s.store s.base (bcdDigits (s.reg x))).byte (s.i.toNat + k)).toNat = decimalDigit (s.reg x) k :=
    (congrArg BitVec.toNat (s.byte_store_add h hk)).trans (toNat_getD_bcdDigits (s.reg x) hk)
  exact ⟨_, exec_storeBcd_of_inBounds x h, hdigit (k := 0) (by decide), hdigit (k := 1) (by decide),
    hdigit (k := 2) (by decide), onlyChanges_store s s.base (bcdDigits (s.reg x)) h⟩

/-- Settles O30: one store at `I` of the `x + 1` registers. -/
theorem storeRegsResult : Obligations.StoreRegsResult := by
  intro s x h
  have hlen : (s.regsUpTo x).length = x.val + 1 := s.length_regsUpTo x
  have hfit : s.base + (s.regsUpTo x).length ≤ Config.memSize := hlen.symm ▸ h
  refine ⟨_, exec_storeRegs_of_inBounds x h, fun k hk => ?_, hlen ▸ onlyChanges_store s s.base _ hfit⟩
  have hklt : k.val < (s.regsUpTo x).length := hlen.symm ▸ Nat.lt_succ_of_le hk
  exact (s.byte_store_add hfit hklt).trans (s.getD_regsUpTo x k hk 0)

/-! ### Loads within bounds (R145) -/

theorem exec_loadRegs_of_inBounds {s : State} (x : Reg) (h : s.i.toNat + x.val + 1 ≤ 4096) :
    exec (.loadRegs x) s = .next (s.setRegs (s.loadedRegs x)) :=
  if_pos (.inr h)

/-- Settles O31: the registers up to `x` come from memory, the others stay. -/
theorem loadRegsResult : Obligations.LoadRegsResult := fun s x h =>
  ⟨_, exec_loadRegs_of_inBounds x h, fun k hk => (s.reg_setRegs_loadedRegs x k).trans (if_pos hk),
    onlyChanges_loadedRegs s x⟩

/-- A load of registers that memory at `I` already holds changes nothing (R145). -/
theorem State.setRegs_loadedRegs_eq_self {s : State} {x : Reg}
    (h : ∀ k : Reg, k ≤ x → s.byte (s.base + k.val) = s.reg k) : s.setRegs (s.loadedRegs x) = s := by
  have hv : s.loadedRegs x = s.v := Vector.ext fun k hk => by
    have hreg := s.reg_setRegs_loadedRegs x ⟨k, hk⟩
    rwa [ite_eq_right_iff.mpr (h ⟨k, hk⟩)] at hreg
  rw [hv]
  rfl

/-- Settles O33: the store leaves `I` and the registers, so memory at `I` holds what the load writes. -/
theorem loadRegsUndoesStoreRegs : Obligations.LoadRegsUndoesStoreRegs := by
  intro s x h
  obtain ⟨t, ht, hbytes, hframe⟩ := storeRegsResult s x h
  have hi : t.i = s.i := hframe .index (by simp [bytesAt])
  have hreg (k : Reg) : t.reg k = s.reg k := hframe (.reg k) (by simp [bytesAt])
  have hheld (k : Reg) (hk : k ≤ x) : t.byte (t.base + k.val) = t.reg k := by
    rw [State.base, hi, hbytes k hk, hreg]
  refine ⟨t, ht, ?_⟩
  rw [exec_loadRegs_of_inBounds x (hi.symm ▸ h), State.setRegs_loadedRegs_eq_self hheld]

/-! ### The index register (R140 to R142) -/

/-- Five times a nibble is at most 75: the glyph address is not reduced (R142). -/
theorem State.toNat_glyphAddress (s : State) (x : Reg) : (s.glyphAddress x).toNat = 5 * ((s.reg x).toNat % 16) := by
  rw [State.glyphAddress, BitVec.toNat_ofNat]
  omega

/-- Settles O27: each instruction is one write of `I`. -/
theorem loadIndexResult : Obligations.LoadIndexResult := fun s addr x =>
  ⟨⟨s.setI addr, rfl, rfl, onlyChanges_setI s addr⟩,
    ⟨s.setI (s.glyphAddress x), rfl, s.toNat_glyphAddress x, onlyChanges_setI s _⟩⟩

/-- Settles O28: the sum is written at 16 bits, and no register with it. -/
theorem addIndexResult : Obligations.AddIndexResult := fun s x =>
  ⟨s.setI (BitVec.ofNat 16 (s.i.toNat + (s.reg x).toNat)), rfl, BitVec.toNat_ofNat _ _, onlyChanges_setI s _⟩

end Sys2Proof.Machine
end

section
/-! The display (R150 to R153): what a clear, one draw and a second draw of the same sprite leave. -/

namespace Sys2Proof.Machine

/-! ### The clear (R150) -/

/-- The cells a framebuffer put in place with the changed flag writes (R150). -/
theorem onlyChanges_setFb_setChanged (s : State) (f : Framebuffer) :
    OnlyChanges ({.changed} ∪ allPixels) s ((s.setFb f).setChanged true) :=
  ((onlyChanges_setFb s f).trans (onlyChanges_setChanged _ true)).mono (Set.union_comm allPixels _).subset

/-- Settles O35: the blank framebuffer reads off everywhere. -/
theorem clearResult : Obligations.ClearResult := fun s =>
  ⟨(s.setFb Framebuffer.blank).setChanged true, rfl, Framebuffer.pixel_blank, rfl,
    onlyChanges_setFb_setChanged s Framebuffer.blank⟩

/-! ### One draw (R151) -/

theorem exec_draw_of_inBounds {s : State} (x y : Reg) {n : Nat} (h : n = 0 ∨ s.i.toNat + n ≤ 4096) :
    exec (.draw x y n) s =
      .next (s.plotted (drawSprite s.fb (s.originX x) (s.originY y) (s.bytes s.base n))) :=
  if_pos h

/-- VF is written last, so nothing a sprite does covers the collision (R151, D12). -/
theorem State.reg_plotted_vf (s : State) (p : Plot) : (s.plotted p).reg vf = flagByte p.2 :=
  State.reg_setReg_same (s.setFb p.1) vf (flagByte p.2)

theorem flagByte_eq_one_iff (b : Bool) : flagByte b = 1 ↔ b = true := by cases b <;> decide

theorem drawSprite_collision_iff (s : State) (n ox oy : Nat) :
    (drawSprite s.fb ox oy (s.bytes s.base n)).2 = true ↔ s.collides n ox oy :=
  (toggles_drawSprite s n ox oy).2.trans (or_iff_right Bool.false_ne_true)

/-- Settles O36: the plotter inverts the pixels under the sprite, and its collision is what VF gets. -/
theorem drawResult : Obligations.DrawResult := by
  intro s x y n h
  obtain ⟨hpixel, -⟩ := toggles_drawSprite s n (s.originX x) (s.originY y)
  have hcollision := drawSprite_collision_iff s n (s.originX x) (s.originY y)
  refine ⟨_, exec_draw_of_inBounds x y h, fun px py => (hpixel px py).1, fun px py => (hpixel px py).2,
    fun hc => ?_, fun hc => ?_, rfl, onlyChanges_plotted s _⟩
  · rw [State.reg_plotted_vf, hcollision.mpr hc]
    rfl
  · rw [State.reg_plotted_vf, Bool.eq_false_iff.mpr fun hp => hc (hcollision.mp hp)]
    rfl

/-! ### A second draw of the same sprite (R153) -/

section
variable {T : Nat → Nat → Prop} {p q p' q' : Plot}

/-- Inverting the same pixels twice restores them. -/
theorem Toggles.pixel_of_twice (h : Toggles T p q) (k : Toggles T p' q')
    (hp : ∀ x y, p'.1.pixel x y = q.1.pixel x y) (x y : Nat) : q'.1.pixel x y = p.1.pixel x y := by
  by_cases ht : T x y
  · rw [(k.1 x y).1 ht, hp, (h.1 x y).1 ht, Bool.not_not]
  · rw [(k.1 x y).2 ht, hp, (h.1 x y).2 ht]

/-- The second time, the pixels found on are those the first set, whether or not the first met one that was on. -/
theorem Toggles.collision_of_twice (h : Toggles T p q) (k : Toggles T p' q')
    (hp : ∀ x y, p'.1.pixel x y = q.1.pixel x y) (hp2 : p'.2 = false) :
    q'.2 = true ↔ ∃ x y, p.1.pixel x y = false ∧ q.1.pixel x y = true := by
  rw [k.2, hp2, or_iff_right Bool.false_ne_true]
  constructor
  · rintro ⟨x, y, ht, hon⟩
    have hq : q.1.pixel x y = true := (hp x y).symm.trans hon
    exact ⟨x, y, by rwa [(h.1 x y).1 ht, Bool.not_eq_true'] at hq, hq⟩
  · rintro ⟨x, y, hoff, hon⟩
    have ht : T x y := by
      by_contra hn
      rw [(h.1 x y).2 hn, hoff] at hon
      exact Bool.false_ne_true hon
    exact ⟨x, y, ht, (hp x y).trans hon⟩

end

/-- Which pixels a sprite hits rests on `I` and the sprite's bytes alone. -/
theorem State.spriteHits_congr {s u : State} {n : Nat} (hi : u.i = s.i)
    (hbytes : ∀ r, r < n → u.byte (s.i.toNat + r) = s.byte (s.i.toNat + r)) (ox oy px py : Nat) :
    u.spriteHits n ox oy px py ↔ s.spriteHits n ox oy px py := by
  have hbit (r c : Nat) : u.spriteBit n r c ↔ s.spriteBit n r c :=
    and_congr_right fun hr => by rw [State.base, State.base, hi, hbytes r hr]
  simp only [State.spriteHits, hbit]

/-- Settles O37: at the same origin, with the same bytes, the second draw inverts the pixels the first inverted. -/
theorem drawTwiceRestores : Obligations.DrawTwiceRestores := by
  intro s t u x y n h ht hx hy hi hbytes hpixel
  cases (exec_draw_of_inBounds x y h).symm.trans ht
  have hw : exec (.draw x y n) u =
      .next (u.plotted (drawSprite u.fb (s.originX x) (s.originY y) (u.bytes u.base n))) := by
    rw [exec_draw_of_inBounds x y (hi.symm ▸ h), State.originX, State.originY, hx, hy, State.originX, State.originY]
  have hfirst := toggles_drawSprite s n (s.originX x) (s.originY y)
  have hsecond := (toggles_drawSprite u n (s.originX x) (s.originY y)).congr fun px py =>
    (State.spriteHits_congr hi hbytes _ _ px py).symm
  refine ⟨_, hw, hfirst.pixel_of_twice hsecond hpixel, fun _ => ?_⟩
  rw [State.reg_plotted_vf, flagByte_eq_one_iff]
  exact hfirst.collision_of_twice hsecond hpixel rfl

end Sys2Proof.Machine
end

section
/-! Keys and timers (R160 to R166): what the key skips, the wait for a key, the timer moves and the tick answer. -/

namespace Sys2Proof.Machine

/-! ### The wait for a key (R162, R211) -/

theorem State.leastPressed_eq_none {s : State} (h : ∀ k : Key, s.key k = false) : s.leastPressed = none :=
  (s.pressedFrom_none 0 16).mpr fun j _ _ => h (Fin.ofNat 16 j)

/-- The scan from 0 stops at the key that is pressed with none pressed below it (R162). -/
theorem State.leastPressed_eq_some {s : State} {k : Key} (hk : s.key k = true)
    (hmin : ∀ j : Key, j < k → s.key j = false) : s.leastPressed = some k.val := by
  have hkScanned : s.key (Fin.ofNat 16 k.val) ≠ false := by
    rw [show Fin.ofNat 16 k.val = k from Fin.ofNat_val_eq_self k, hk]
    decide
  rcases hscan : s.leastPressed with _ | j
  · exact absurd ((s.pressedFrom_none 0 16).mp hscan k.val (Nat.zero_le _) (by omega)) hkScanned
  · obtain ⟨-, hj, hpressed, hbelow⟩ := s.pressedFrom_some 0 16 j hscan
    have hle : j ≤ k.val := not_lt.mp fun hlt => hkScanned (hbelow k.val (Nat.zero_le _) hlt)
    have hge : k.val ≤ j := by
      refine not_lt.mp fun hlt => ?_
      have hj' : Fin.ofNat 16 j < k := Fin.lt_def.mpr ((Nat.mod_eq_of_lt (by omega)).trans_lt hlt)
      exact absurd hpressed (by rw [hmin _ hj']; decide)
    rw [le_antisymm hle hge]

theorem exec_waitKey_of_leastPressed {s : State} {k : Nat} (x : Reg) (h : s.leastPressed = some k) :
    exec (.waitKey x) s = .next (s.setReg x (BitVec.ofNat 8 k)) := by
  rw [exec, execWaitKey, h]

theorem exec_waitKey_of_none_pressed {s : State} (x : Reg) (h : ∀ k : Key, s.key k = false) :
    exec (.waitKey x) s = .next (s.setPc (s.pc - 2)) := by
  rw [exec, execWaitKey, State.leastPressed_eq_none h]

/-- Settles O39: the scan finds the least pressed key, a number that fits a byte, or nothing. -/
theorem waitKeyResult : Obligations.WaitKeyResult := by
  intro s x
  refine ⟨fun k hk hmin => ?_, fun hnone => ?_⟩
  · refine ⟨_, exec_waitKey_of_leastPressed x (State.leastPressed_eq_some hk hmin), ?_, onlyChanges_setReg s x _⟩
    rw [State.reg_setReg_same, BitVec.toNat_ofNat]
    omega
  · exact ⟨s.setPc (s.pc - 2), exec_waitKey_of_none_pressed x hnone, rfl, onlyChanges_setPc s _⟩

/-- The rewind of `Fx0A` takes back the fetch advance, whatever `pc` was (R92, R162). -/
theorem State.setPc_sub_two_advance (s : State) : s.advance.setPc (s.advance.pc - 2) = s := by
  rw [State.advance_pc, BitVec.add_sub_cancel]
  rfl

theorem dispatcherStep_of_waitKey_none_pressed {s : State} {x : Reg} (hf : s.Fetches (.waitKey x))
    (h : ∀ k : Key, s.key k = false) : dispatcherStep s = .next s := by
  have hadvance : ∀ k : Key, s.advance.key k = false := h
  rw [dispatcherStep_of_fetches hf, exec_waitKey_of_none_pressed x hadvance, State.setPc_sub_two_advance]

/-- Settles O40: each of the three steps is the dispatcher's, and neither the fetch nor the scan looks at the schedule. -/
theorem waitKeySpins : Obligations.WaitKeySpins := by
  intro s x hr hf hnone
  have hspin := dispatcherStep_of_waitKey_none_pressed hf hnone
  refine ⟨(applyEvent_step_of_running hr).trans hspin, fun hsched => (step_of_schedule_nil hr hsched).trans hspin,
    fun rest hsched => (step_of_scheduled_step hr hsched).trans ?_⟩
  have hf' : (s.setSchedule rest).Fetches (.waitKey x) := hf
  exact dispatcherStep_of_waitKey_none_pressed hf' hnone

/-! ### The tick (R166) -/

/-- A count down is the subtraction of one that stops at zero (R166). -/
theorem toNat_countDown (b : Byte) : (countDown b).toNat = b.toNat - 1 := by
  unfold countDown
  split
  · next h => rw [h]; rfl
  · next h =>
    have hpos : b.toNat ≠ 0 := fun e => h (BitVec.eq_of_toNat_eq e)
    exact BitVec.toNat_sub_of_le (BitVec.le_def.mpr (Nat.one_le_iff_ne_zero.mpr hpos))

theorem toNat_dt_tick (s : State) : (tick s).dt.toNat = s.dt.toNat - 1 := toNat_countDown s.dt

theorem toNat_st_tick (s : State) : (tick s).st.toNat = s.st.toNat - 1 := toNat_countDown s.st

/-- Settles O42: a tick is two count downs, whatever the status. -/
theorem tickResult : Obligations.TickResult := fun s =>
  ⟨tick s, rfl, toNat_dt_tick s, toNat_st_tick s, onlyChanges_tick s⟩

/-- Settles O43, by induction on the number of ticks, the last one apart. -/
theorem ticksCountDown : Obligations.TicksCountDown := by
  intro s n
  induction n with
  | zero => exact ⟨rfl, rfl⟩
  | succ n ih =>
    obtain ⟨hdt, hst⟩ := ih
    rw [Function.iterate_succ_apply', toNat_dt_tick, toNat_st_tick, hdt, hst]
    exact ⟨Nat.sub_sub _ n 1, Nat.sub_sub _ n 1⟩

/-! ### The key skips (R160, R161) and the timer moves (R163 to R165) -/

theorem State.keyOf_eq {s : State} {x : Reg} {k : Key} (hk : k.val = (s.reg x).toNat % 16) : s.keyOf x = k :=
  Fin.ext hk.symm

/-- A skip on the opposite of a condition: `pc` stays exactly when the condition holds (R161). -/
theorem skipIf_not (c : Bool) (s : State) :
    skipIf (!c) s = .next (s.setPc (if c = true then s.pc else s.pc + 2)) := by
  cases c <;> rfl

/-- Settles O38: the two skips on the one key that `V[x]` selects. -/
theorem skipKeyResult : Obligations.SkipKeyResult := by
  intro s x k hk
  rw [← State.keyOf_eq hk]
  exact ⟨⟨_, skipIf_eq _ s, rfl, onlyChanges_setPc s _⟩, ⟨_, skipIf_not _ s, rfl, onlyChanges_setPc s _⟩⟩

/-- Settles O41: each instruction is one write, of `V[x]` or of a timer. -/
theorem timerInstructionsResult : Obligations.TimerInstructionsResult := fun s x =>
  ⟨⟨s.setReg x s.dt, rfl, State.reg_setReg_same s x s.dt, onlyChanges_setReg s x s.dt⟩,
    ⟨s.setDt (s.reg x), rfl, rfl, onlyChanges_setDt s _⟩,
    ⟨s.setSt (s.reg x), rfl, rfl, onlyChanges_setSt s _⟩⟩

end Sys2Proof.Machine
end

section
/-! The host's writes (R183): a key, the changed flag and the stop. -/

namespace Sys2Proof.Machine

theorem stop_eq_setStatus {s : State} (h : s.status = .running) : stop s = s.setStatus .stopped := if_pos h

theorem State.key_setKeyBit_same (s : State) (k : Key) (b : Bool) : (s.setKeyBit k b).key k = b :=
  (State.key_setKeyBit s k k b).trans (if_pos rfl)

/-- Settles O44: each event is one write to the state, and `stop` outside Running none. -/
theorem hostWritesResult : Obligations.HostWritesResult := by
  intro s k b
  refine ⟨?setKey, ?clearChanged, fun hrun => ?stop, fun hrun => ?stopIgnored⟩
  case setKey => exact ⟨s.setKeyBit k b, rfl, State.key_setKeyBit_same s k b, onlyChanges_setKeyBit s k b⟩
  case clearChanged => exact ⟨s.setChanged false, rfl, rfl, onlyChanges_setChanged s false⟩
  case stop =>
    exact ⟨s.setStatus .stopped, congrArg _ (stop_eq_setStatus hrun), rfl, onlyChanges_setStatus s .stopped⟩
  case stopIgnored => exact congrArg _ (stop_eq_self hrun)

end Sys2Proof.Machine
end

section
/-! Beyond the end of memory: the fetch (R91) and the data accesses at `I` (R57) fault and access nothing (R175). -/

namespace Sys2Proof.Machine

theorem dispatcherStep_of_not_fetchable {s : State} (h : ¬ fetchable s.pc) :
    dispatcherStep s = .next (s.raise .fetchOutOfBounds) := if_neg h

/-- Settles O8: each of the three steps is the dispatcher's, and no fetch begins above 4094. -/
theorem fetchOutOfBoundsFaults : Obligations.FetchOutOfBoundsFaults := by
  intro s hr hpc
  have hf : ¬ fetchable s.pc := Nat.not_lt.mpr (Nat.succ_le_succ hpc)
  have hstep := dispatcherStep_of_not_fetchable hf
  refine ⟨s.raise .fetchOutOfBounds, (applyEvent_step_of_running hr).trans hstep,
    fun hsched => (step_of_schedule_nil hr hsched).trans hstep,
    fun rest hsched => (step_of_scheduled_step hr hsched).trans ?_, faultedFrom_raise s _⟩
  have hf' : ¬ fetchable (s.setSchedule rest).pc := hf
  exact dispatcherStep_of_not_fetchable hf'

/-- An access of at least one byte that reaches beyond memory is out of bounds (R57). -/
theorem State.not_inBounds {s : State} {len : Nat} (hlen : 0 < len) (h : 4096 < s.i.toNat + len) : ¬ s.inBounds len :=
  not_or.mpr ⟨hlen.ne', Nat.not_le.mpr h⟩

/-- Settles O32: each of the four instructions tests its bound first and, beyond it, only raises the fault. -/
theorem memoryOutOfBoundsFaults : Obligations.MemoryOutOfBoundsFaults := by
  intro s x y n
  have hfault := faultedFrom_raise s .memoryOutOfBounds
  refine ⟨fun h => ⟨_, ?storeBcd, hfault⟩, fun h => ⟨_, ?storeRegs, hfault⟩, fun h => ⟨_, ?loadRegs, hfault⟩,
    fun hn h => ⟨_, ?draw, hfault⟩⟩
  case storeBcd => exact if_neg (State.not_inBounds (len := 3) (by decide) h)
  case storeRegs => exact if_neg (State.not_inBounds x.val.succ_pos h)
  case loadRegs => exact if_neg (State.not_inBounds x.val.succ_pos h)
  case draw => exact if_neg (State.not_inBounds hn h)

end Sys2Proof.Machine
end

section
/-! From reset to the first instruction (R200 to R204). -/

namespace Sys2Proof.Machine

/-! ### The reset event (R200) -/

theorem onlyChanges_resetEvent (s : State) :
    OnlyChanges {.draws, .schedule} (State.resetWith s.font) (resetEvent s) := by
  intro p hp
  cases p with
  | draws => exact absurd (.inl rfl) hp
  | schedule => exact absurd (.inr rfl) hp
  | _ => rfl

/-- Settles O46: the reset event is the reset state of the machine's font, but for the model's own two fields. -/
theorem resetEventResult : Obligations.ResetEventResult := fun s =>
  ⟨resetEvent s, rfl, rfl, rfl, onlyChanges_resetEvent s⟩

/-! ### The load (R204) -/

theorem load_of_accepted {s : State} {bytes : List Byte} (hs : s.status = .uninitialized)
    (hlen : bytes.length ≤ 3584) :
    load bytes s = (s.store Config.romBase bytes).setStatus .running := by
  rw [load_eq, if_pos ⟨hs, hlen⟩]

theorem load_of_rejected {s : State} {bytes : List Byte}
    (h : s.status ≠ .uninitialized ∨ 3584 < bytes.length) : load bytes s = s := by
  rcases h with hs | hlen
  · exact load_eq_self hs bytes
  · rw [load_eq, if_neg fun hok => Nat.not_le.mpr hlen hok.2]

/-- Settles O45: an accepted stream ends within memory, so its load is one store and one write of `status`. -/
theorem loadResult : Obligations.LoadResult := by
  intro s bytes
  refine ⟨fun hs hlen => ?accepted, fun h => congrArg _ (load_of_rejected h)⟩
  case accepted =>
    have hfit : Config.romBase + bytes.length ≤ Config.memSize := Nat.add_le_add_left hlen 0x200
    refine ⟨(s.store Config.romBase bytes).setStatus .running, congrArg _ (load_of_accepted hs hlen), rfl,
      fun k hk => s.byte_store_add hfit hk, ?_⟩
    rw [Set.union_comm]
    exact (onlyChanges_store s _ bytes hfit).trans (onlyChanges_setStatus _ _)

/-! ### The boot (R201, R202) -/

/-- The encoding of an instruction at `pc`, high byte first, is the word fetched there (R58, R70). -/
theorem State.fetches_of_bytes {s : State} {i : Instr} (hi : i.WellFormed) (hf : fetchable s.pc)
    (hhi : s.byte s.pc.toNat = highByte (encode i)) (hlo : s.byte (s.pc.toNat + 1) = lowByte (encode i)) :
    s.Fetches i := by
  refine ⟨hf, ?_⟩
  rw [State.fetchedWord, hhi, hlo, wordOfBytes_bytes]
  exact decode_encode hi

/-- Settles O48: the load leaves `pc` at 0x200, where the stream's first two bytes are the instruction's encoding. -/
theorem bootRunsFirstInstruction : Obligations.BootRunsFirstInstruction := by
  intro s i rest hi hlen
  have hlen' : (encodeBytes i ++ rest).length ≤ 3584 := by rwa [List.length_append, Nat.add_comm]
  obtain ⟨t, hload, hrun, hbyte, hframe⟩ := (loadResult (resetEvent s) (encodeBytes i ++ rest)).1 rfl hlen'
  have hpc : t.pc = 0x200 := hframe .pc (by simp [bytesAt])
  have hfetches : t.Fetches i := by
    refine State.fetches_of_bytes hi ?_ ?_ ?_ <;> rw [hpc]
    · decide
    · exact hbyte 0 (by simp [encodeBytes])
    · exact hbyte 1 (by simp [encodeBytes])
  have hstep := dispatcherStep_of_fetches hfetches
  exact ⟨resetEvent s, t, rfl, hload, hrun, hpc, (applyEvent_step_of_running hrun).trans hstep,
    fun hsched => (step_of_schedule_nil hrun hsched).trans hstep⟩

end Sys2Proof.Machine
end
